-- ==== Sys2Proof/Word.lean ====
section
/-! DEFINITION. The word types of the core: widths only, no operation. -/

namespace Sys2Proof

/-- W, an f register, a literal of format K8: 8 bits (00_scope.md R7, `DATA_BITS`). -/
abbrev Byte := BitVec 8

/-- A program address, the width of PC and of a stacked return address: 13 bits (10_state.md R24, R31). -/
abbrev PAddr := BitVec 13

/-- An instruction word: 14 bits (30_encoding.md R90). -/
abbrev InstrWord := BitVec 14

end Sys2Proof
end

