-- ==== Sys2Proof/Syntax.lean ====
section
/-! DEFINITION. The abstract syntax: one constructor per row of spec/opcode_table.json, operands as the assembler writes them
(30_encoding.md R108). The ranges of the operands are checked in WellFormed. -/

namespace Sys2Proof

/-- The destination bit d: 0 selects W, 1 selects the f register (00_scope.md R15, 40_byte_oriented.md R120). -/
inductive Dest where
  | w
  | f
  deriving DecidableEq, Repr

/-- The 35 instructions (00_scope.md R3). `f` is a data address, `b` a bit number, `k` a literal, all unsigned
(30_encoding.md R97). `ret` is the instruction RETURN (the word is a keyword of Lean). -/
inductive Instr where
  | addlw (k : Nat)
  | addwf (f : Nat) (d : Dest)
  | andlw (k : Nat)
  | andwf (f : Nat) (d : Dest)
  | bcf (f : Nat) (b : Nat)
  | bsf (f : Nat) (b : Nat)
  | btfsc (f : Nat) (b : Nat)
  | btfss (f : Nat) (b : Nat)
  | call (k : Nat)
  | clrf (f : Nat)
  | clrw
  | clrwdt
  | comf (f : Nat) (d : Dest)
  | decf (f : Nat) (d : Dest)
  | decfsz (f : Nat) (d : Dest)
  | goto (k : Nat)
  | incf (f : Nat) (d : Dest)
  | incfsz (f : Nat) (d : Dest)
  | iorlw (k : Nat)
  | iorwf (f : Nat) (d : Dest)
  | movlw (k : Nat)
  | movf (f : Nat) (d : Dest)
  | movwf (f : Nat)
  | nop
  | retfie
  | retlw (k : Nat)
  | ret
  | rlf (f : Nat) (d : Dest)
  | rrf (f : Nat) (d : Dest)
  | sleep
  | sublw (k : Nat)
  | subwf (f : Nat) (d : Dest)
  | swapf (f : Nat) (d : Dest)
  | xorlw (k : Nat)
  | xorwf (f : Nat) (d : Dest)
  deriving DecidableEq, Repr

end Sys2Proof
end

