-- ==== Sys2Proof/WellFormed.lean ====
section
/-! DEFINITION. Which operands an instruction may carry: the ranges of 00_scope.md R7 and 30_encoding.md R97. -/

namespace Sys2Proof

/-- f is in 0..127 (30_encoding.md R97). -/
def fieldF (f : Nat) : Bool := decide (f < 128)

/-- b is in 0..7 (30_encoding.md R97). -/
def fieldB (b : Nat) : Bool := decide (b < 8)

/-- `0 <= k <= 255` (42_literal.md R160 to R165, 44_control_transfer.md R203). -/
def fieldK8 (k : Nat) : Bool := decide (k ≤ 255)

/-- `0 <= k <= 2047` (44_control_transfer.md R200, R201). -/
def fieldK11 (k : Nat) : Bool := decide (k ≤ 2047)

/-- Every operand of the instruction lies in its range. -/
def wellFormed : Instr → Bool
  | .addlw k => fieldK8 k
  | .addwf f _ => fieldF f
  | .andlw k => fieldK8 k
  | .andwf f _ => fieldF f
  | .bcf f b => fieldF f && fieldB b
  | .bsf f b => fieldF f && fieldB b
  | .btfsc f b => fieldF f && fieldB b
  | .btfss f b => fieldF f && fieldB b
  | .call k => fieldK11 k
  | .clrf f => fieldF f
  | .clrw => true
  | .clrwdt => true
  | .comf f _ => fieldF f
  | .decf f _ => fieldF f
  | .decfsz f _ => fieldF f
  | .goto k => fieldK11 k
  | .incf f _ => fieldF f
  | .incfsz f _ => fieldF f
  | .iorlw k => fieldK8 k
  | .iorwf f _ => fieldF f
  | .movlw k => fieldK8 k
  | .movf f _ => fieldF f
  | .movwf f => fieldF f
  | .nop => true
  | .retfie => true
  | .retlw k => fieldK8 k
  | .ret => true
  | .rlf f _ => fieldF f
  | .rrf f _ => fieldF f
  | .sleep => true
  | .sublw k => fieldK8 k
  | .subwf f _ => fieldF f
  | .swapf f _ => fieldF f
  | .xorlw k => fieldK8 k
  | .xorwf f _ => fieldF f

end Sys2Proof
end

