-- ==== Sys2Proof/Decode.lean ====
section
/-! DEFINITION. The decoder (30_encoding.md R105), the opcode table as rows (R100), and the encoder (R112). -/

namespace Sys2Proof

/-- What a 14-bit word spells: an instruction, or nothing (30_encoding.md R103, R104). -/
inductive Decoded where
  | instr (i : Instr)
  /-- The word matches no row of R100. -/
  | illegalEncoding
  deriving DecidableEq, Repr

/-- `f = w[6:0]` (30_encoding.md R97). -/
def fOf (w : InstrWord) : Nat := (w.extractLsb' 0 7).toNat

/-- `d = w[7]` (30_encoding.md R97). -/
def dOf (w : InstrWord) : Dest := if w.getLsbD 7 then .f else .w

/-- `b = w[9:7]` (30_encoding.md R97). -/
def bOf (w : InstrWord) : Nat := (w.extractLsb' 7 3).toNat

/-- `k = w[7:0]` of format K8 (30_encoding.md R97). -/
def k8Of (w : InstrWord) : Nat := (w.extractLsb' 0 8).toNat

/-- `k = w[10:0]` of format K11 (30_encoding.md R97). -/
def k11Of (w : InstrWord) : Nat := (w.extractLsb' 0 11).toNat

/-- The words under bits 13:12 = `00` with bits 11:8 = `0000` (30_encoding.md R96, R101). -/
def decodeGroup0 (w : InstrWord) : Decoded :=
  if w.getLsbD 7 then .instr (.movwf (fOf w))
  else if w &&& 0x3F9F#14 = 0 then .instr .nop
  else if w = 0x0008#14 then .instr .ret
  else if w = 0x0009#14 then .instr .retfie
  else if w = 0x0063#14 then .instr .sleep
  else if w = 0x0064#14 then .instr .clrwdt
  else .illegalEncoding

/-- The words under bits 13:12 = `00` with bits 11:8 = `0001` (30_encoding.md R101). -/
def decodeGroup1 (w : InstrWord) : Decoded :=
  if w.getLsbD 7 then .instr (.clrf (fOf w))
  else if w = 0x0103#14 then .instr .clrw
  else .illegalEncoding

/-- The words under bits 13:12 = `00` (30_encoding.md R91, R101). -/
def decodeRegister (w : InstrWord) : Decoded :=
  match (w.extractLsb' 8 4).toNat with
  | 0 => decodeGroup0 w
  | 1 => decodeGroup1 w
  | 2 => .instr (.subwf (fOf w) (dOf w))
  | 3 => .instr (.decf (fOf w) (dOf w))
  | 4 => .instr (.iorwf (fOf w) (dOf w))
  | 5 => .instr (.andwf (fOf w) (dOf w))
  | 6 => .instr (.xorwf (fOf w) (dOf w))
  | 7 => .instr (.addwf (fOf w) (dOf w))
  | 8 => .instr (.movf (fOf w) (dOf w))
  | 9 => .instr (.comf (fOf w) (dOf w))
  | 10 => .instr (.incf (fOf w) (dOf w))
  | 11 => .instr (.decfsz (fOf w) (dOf w))
  | 12 => .instr (.rrf (fOf w) (dOf w))
  | 13 => .instr (.rlf (fOf w) (dOf w))
  | 14 => .instr (.swapf (fOf w) (dOf w))
  | _ => .instr (.incfsz (fOf w) (dOf w))

/-- The words under bits 13:12 = `01` (30_encoding.md R93). -/
def decodeBit (w : InstrWord) : Decoded :=
  match (w.extractLsb' 10 2).toNat with
  | 0 => .instr (.bcf (fOf w) (bOf w))
  | 1 => .instr (.bsf (fOf w) (bOf w))
  | 2 => .instr (.btfsc (fOf w) (bOf w))
  | _ => .instr (.btfss (fOf w) (bOf w))

/-- The words under bits 13:12 = `10` (30_encoding.md R95). -/
def decodeTransfer (w : InstrWord) : Decoded :=
  if w.getLsbD 11 then .instr (.goto (k11Of w)) else .instr (.call (k11Of w))

/-- The words under bits 13:12 = `11` (30_encoding.md R94, R102). -/
def decodeLiteral (w : InstrWord) : Decoded :=
  match (w.extractLsb' 8 4).toNat with
  | 0 | 1 | 2 | 3 => .instr (.movlw (k8Of w))
  | 4 | 5 | 6 | 7 => .instr (.retlw (k8Of w))
  | 8 => .instr (.iorlw (k8Of w))
  | 9 => .instr (.andlw (k8Of w))
  | 10 => .instr (.xorlw (k8Of w))
  | 11 => .illegalEncoding
  | 12 | 13 => .instr (.sublw (k8Of w))
  | _ => .instr (.addlw (k8Of w))

/-- The decision tree of 30_encoding.md R105: it depends on nothing but the word. -/
def decode (w : InstrWord) : Decoded :=
  match (w.extractLsb' 12 2).toNat with
  | 0 => decodeRegister w
  | 1 => decodeBit w
  | 2 => decodeTransfer w
  | _ => decodeLiteral w

/-- One row of the map of 30_encoding.md R100: a word `w` is the row's when `w & mask = value`. -/
structure OpcodeRow where
  mnemonic : String
  value : InstrWord
  mask : InstrWord
  build : InstrWord → Instr

/-- The rows of 30_encoding.md R100 under bits 13:12 = `00` with no operand or with f alone. -/
def opcodeRowsPlain : List OpcodeRow := [
  ⟨"NOP", 0x0000, 0x3F9F, fun _ => .nop⟩,
  ⟨"RETURN", 0x0008, 0x3FFF, fun _ => .ret⟩,
  ⟨"RETFIE", 0x0009, 0x3FFF, fun _ => .retfie⟩,
  ⟨"SLEEP", 0x0063, 0x3FFF, fun _ => .sleep⟩,
  ⟨"CLRWDT", 0x0064, 0x3FFF, fun _ => .clrwdt⟩,
  ⟨"MOVWF", 0x0080, 0x3F80, fun w => .movwf (fOf w)⟩,
  ⟨"CLRW", 0x0103, 0x3FFF, fun _ => .clrw⟩,
  ⟨"CLRF", 0x0180, 0x3F80, fun w => .clrf (fOf w)⟩]

/-- The rows of format FD (30_encoding.md R91, R100). -/
def opcodeRowsFD : List OpcodeRow := [
  ⟨"SUBWF", 0x0200, 0x3F00, fun w => .subwf (fOf w) (dOf w)⟩,
  ⟨"DECF", 0x0300, 0x3F00, fun w => .decf (fOf w) (dOf w)⟩,
  ⟨"IORWF", 0x0400, 0x3F00, fun w => .iorwf (fOf w) (dOf w)⟩,
  ⟨"ANDWF", 0x0500, 0x3F00, fun w => .andwf (fOf w) (dOf w)⟩,
  ⟨"XORWF", 0x0600, 0x3F00, fun w => .xorwf (fOf w) (dOf w)⟩,
  ⟨"ADDWF", 0x0700, 0x3F00, fun w => .addwf (fOf w) (dOf w)⟩,
  ⟨"MOVF", 0x0800, 0x3F00, fun w => .movf (fOf w) (dOf w)⟩,
  ⟨"COMF", 0x0900, 0x3F00, fun w => .comf (fOf w) (dOf w)⟩,
  ⟨"INCF", 0x0A00, 0x3F00, fun w => .incf (fOf w) (dOf w)⟩,
  ⟨"DECFSZ", 0x0B00, 0x3F00, fun w => .decfsz (fOf w) (dOf w)⟩,
  ⟨"RRF", 0x0C00, 0x3F00, fun w => .rrf (fOf w) (dOf w)⟩,
  ⟨"RLF", 0x0D00, 0x3F00, fun w => .rlf (fOf w) (dOf w)⟩,
  ⟨"SWAPF", 0x0E00, 0x3F00, fun w => .swapf (fOf w) (dOf w)⟩,
  ⟨"INCFSZ", 0x0F00, 0x3F00, fun w => .incfsz (fOf w) (dOf w)⟩]

/-- The rows of formats FB, K11 and K8 (30_encoding.md R93 to R95, R100). -/
def opcodeRowsBitLiteral : List OpcodeRow := [
  ⟨"BCF", 0x1000, 0x3C00, fun w => .bcf (fOf w) (bOf w)⟩,
  ⟨"BSF", 0x1400, 0x3C00, fun w => .bsf (fOf w) (bOf w)⟩,
  ⟨"BTFSC", 0x1800, 0x3C00, fun w => .btfsc (fOf w) (bOf w)⟩,
  ⟨"BTFSS", 0x1C00, 0x3C00, fun w => .btfss (fOf w) (bOf w)⟩,
  ⟨"CALL", 0x2000, 0x3800, fun w => .call (k11Of w)⟩,
  ⟨"GOTO", 0x2800, 0x3800, fun w => .goto (k11Of w)⟩,
  ⟨"MOVLW", 0x3000, 0x3C00, fun w => .movlw (k8Of w)⟩,
  ⟨"RETLW", 0x3400, 0x3C00, fun w => .retlw (k8Of w)⟩,
  ⟨"IORLW", 0x3800, 0x3F00, fun w => .iorlw (k8Of w)⟩,
  ⟨"ANDLW", 0x3900, 0x3F00, fun w => .andlw (k8Of w)⟩,
  ⟨"XORLW", 0x3A00, 0x3F00, fun w => .xorlw (k8Of w)⟩,
  ⟨"SUBLW", 0x3C00, 0x3E00, fun w => .sublw (k8Of w)⟩,
  ⟨"ADDLW", 0x3E00, 0x3E00, fun w => .addlw (k8Of w)⟩]

/-- The complete map of 30_encoding.md R100, its 35 rows. -/
def opcodeRows : List OpcodeRow := opcodeRowsPlain ++ opcodeRowsFD ++ opcodeRowsBitLiteral

/-- The word is the row's (30_encoding.md R100). -/
def OpcodeRow.covers (r : OpcodeRow) (w : InstrWord) : Bool := (w &&& r.mask) == r.value

/-- Decoding by the table (30_encoding.md R105, first sentence). -/
def decodeByRows (w : InstrWord) : Decoded :=
  match opcodeRows.find? (fun r => r.covers w) with
  | some r => .instr (r.build w)
  | none => .illegalEncoding

/-- The destination bit of a word. -/
def dBit : Dest → BitVec 1
  | .w => 0
  | .f => 1

/-- Format FD: six fixed bits, d, f (30_encoding.md R91). -/
def wordFD (op : BitVec 6) (d : Dest) (f : Nat) : InstrWord := op ++ dBit d ++ BitVec.ofNat 7 f

/-- Format F: seven fixed bits, f (30_encoding.md R92). -/
def wordF (op : BitVec 7) (f : Nat) : InstrWord := op ++ BitVec.ofNat 7 f

/-- Format FB: four fixed bits, b, f (30_encoding.md R93). -/
def wordFB (op : BitVec 4) (b f : Nat) : InstrWord := op ++ BitVec.ofNat 3 b ++ BitVec.ofNat 7 f

/-- Format K8: six opcode bits with every don't-care bit 0, k (30_encoding.md R94, R112). -/
def wordK8 (op : BitVec 6) (k : Nat) : InstrWord := op ++ BitVec.ofNat 8 k

/-- Format K11: three fixed bits, k (30_encoding.md R95). -/
def wordK11 (op : BitVec 3) (k : Nat) : InstrWord := op ++ BitVec.ofNat 11 k

/-- The canonical word of an instruction (30_encoding.md R112): the pattern of R100 with its fields, don't-care bits 0. -/
def encode : Instr → InstrWord
  | .addlw k => wordK8 0b111110 k
  | .addwf f d => wordFD 0b000111 d f
  | .andlw k => wordK8 0b111001 k
  | .andwf f d => wordFD 0b000101 d f
  | .bcf f b => wordFB 0b0100 b f
  | .bsf f b => wordFB 0b0101 b f
  | .btfsc f b => wordFB 0b0110 b f
  | .btfss f b => wordFB 0b0111 b f
  | .call k => wordK11 0b100 k
  | .clrf f => wordF 0b0000011 f
  | .clrw => 0b00000100000011
  | .clrwdt => 0b00000001100100
  | .comf f d => wordFD 0b001001 d f
  | .decf f d => wordFD 0b000011 d f
  | .decfsz f d => wordFD 0b001011 d f
  | .goto k => wordK11 0b101 k
  | .incf f d => wordFD 0b001010 d f
  | .incfsz f d => wordFD 0b001111 d f
  | .iorlw k => wordK8 0b111000 k
  | .iorwf f d => wordFD 0b000100 d f
  | .movlw k => wordK8 0b110000 k
  | .movf f d => wordFD 0b001000 d f
  | .movwf f => wordF 0b0000001 f
  | .nop => 0b00000000000000
  | .retfie => 0b00000000001001
  | .retlw k => wordK8 0b110100 k
  | .ret => 0b00000000001000
  | .rlf f d => wordFD 0b001101 d f
  | .rrf f d => wordFD 0b001100 d f
  | .sleep => 0b00000001100011
  | .sublw k => wordK8 0b111100 k
  | .subwf f d => wordFD 0b000010 d f
  | .swapf f d => wordFD 0b001110 d f
  | .xorlw k => wordK8 0b111010 k
  | .xorwf f d => wordFD 0b000110 d f

/-- The instruction read from a word whose bits are `w`, numbered as spec/opcode_table.json numbers them. A word is one
unit of program memory, so no byte order is involved (20_memory.md R68); a number of more than 14 bits is no word (00_scope.md R8). -/
def decodeTableWord (nbits w : Nat) : Option Instr :=
  let n := w % 2 ^ nbits
  if n < 2 ^ 14 then
    match decode (BitVec.ofNat 14 n) with
    | .instr i => some i
    | .illegalEncoding => none
  else none

end Sys2Proof
end

