-- ==== Sys2Proof/Config.lean ====
section
/-! DEFINITION. What one machine fixes and the spec leaves open: the OPEN parameters of 00_scope.md R7 as plain data, and the
free values (opaque constants: nothing in Lean can evaluate them). A State carries its `Params`, so a statement about every
State holds for every choice of the parameters. -/

namespace Sys2Proof

/-- The interrupt sources: the three of 60_exceptions.md R242, and `other n` for the sources D1 does not name, by number. -/
inductive SourceName where
  | rb0Int
  | rbChange
  | eeWrite
  | other (n : Nat)
  deriving DecidableEq, Repr

/-- One interrupt source (60_exceptions.md R244): its enable, its request flag, and whether it is in a condition that
ends a sleep once it is enabled (45_system.md R222). -/
structure Source where
  enable : Bool
  request : Bool
  wake : Bool
  deriving DecidableEq, Repr, Inhabited

/-- The state of the interrupt sources, the `IRQ` of 10_state.md R37 and 60_exceptions.md R244: the three D1 names and as many
others as a chip has (00_scope.md R7: the set of sources is OPEN). -/
structure Irq where
  rb0Int : Source
  rbChange : Source
  eeWrite : Source
  others : List Source
  deriving DecidableEq, Repr, Inhabited

/-- What one bit of a special register holds (20_memory.md R62): a flag of STATUS, GIE, bit `i` of PCLATCH, an enable or a
request of an interrupt source, a bit of storage of its own, or a constant. -/
inductive BitSource where
  | c
  | dc
  | z
  | toFlag
  | pdFlag
  | gie
  | pclatch (i : Nat)
  | irqEnable (src : SourceName)
  | irqRequest (src : SourceName)
  | stored
  | const (v : Bool)
  deriving DecidableEq, Repr

/-- One bit of a special register: what it holds, and whether a data write changes it (20_memory.md R65: the STATUS entry
says which flag bits a data write may change). -/
structure SfrBit where
  source : BitSource
  writable : Bool
  deriving DecidableEq, Repr

/-- A special register, the `Special(rd, wr)` of 20_memory.md R62 as plain data (log entry 6): a register built of named bits,
bit 0 first; a register of a device the spec does not describe; or a register whose `rd` and `wr` are any functions of the state,
the pair number `id` of `Config.specialRead` and `Config.specialWrite`. -/
inductive Sfr where
  | layout (bits : List SfrBit)
  | device
  | general (id : Nat)
  deriving DecidableEq, Repr

/-- What an f value designates (20_memory.md R61, R62). -/
inductive FileKind where
  | plain
  | special (r : Sfr)
  | unmapped
  deriving DecidableEq, Repr

/-- The parameters of 00_scope.md R7 that D1 leaves open. `gpr` is a list of inclusive ranges of f values. PROG is the State's
`prog`, IRQ its `irq`. `wdtPeriod` and `tCycle` are timing: no rule of a step reads them (60_exceptions.md R256,
70_reset_and_hazards.md R291). -/
structure Params where
  stackDepth : Nat
  progSize : Nat
  gpr : List (Nat × Nat)
  sfrMap : List (Nat × Sfr)
  resetVector : PAddr
  resetPclatch : Byte
  resetTo : Bool
  resetPd : Bool
  resetIrq : Irq
  intVector : PAddr
  wdtEnabled : Bool
  wdtPeriod : Nat
  tCycle : Nat
  deriving DecidableEq, Repr, Inhabited

/-- A bit of a layout at position `i` is legal: GIE only as bit 7 (10_state.md R33), PCLATCH has bits 7..0 (R34). -/
def SfrBit.legalAt (i : Nat) (b : SfrBit) : Bool :=
  match b.source with
  | .gie => i == 7
  | .pclatch j => decide (j < 8)
  | _ => true

/-- Every bit of a layout is legal, counting positions from `i`, and none lies beyond bit 7. -/
def layoutLegal : Nat → List SfrBit → Bool
  | _, [] => true
  | i, b :: bs => decide (i < 8) && b.legalAt i && layoutLegal (i + 1) bs

/-- A special register is legal. -/
def Sfr.legal : Sfr → Bool
  | .layout bits => layoutLegal 0 bits
  | .device => true
  | .general _ => true

/-- The bounds the spec puts on the parameters: `STACK_DEPTH` positive, `PROG_SIZE` in 1..8192 (00_scope.md R7,
92_eei_decisions.md D3, D5), `GPR` and `SFR_MAP` inside 0..127 (20_memory.md R61). -/
def Params.wf (p : Params) : Bool :=
  decide (0 < p.stackDepth) && decide (0 < p.progSize) && decide (p.progSize ≤ 8192)
    && p.gpr.all (fun r => decide (r.2 < 128))
    && p.sfrMap.all (fun e => decide (e.1 < 128) && e.2.legal)

/-- No source is enabled, requesting or able to wake: the default premise of 60_exceptions.md R244, R254. -/
def Irq.quiet : Irq :=
  ⟨⟨false, false, false⟩, ⟨false, false, false⟩, ⟨false, false, false⟩, []⟩

/-- The parameters `State.reset` carries. DESIGN CHOICE and PRESUMED, unsafe (log entries 3, 4, 5): `SFR_MAP` empty, the spec's
own default (20_memory.md R62); every f plain storage; `PROG_SIZE` the bound of 8192; the vectors, the reset values and the
depth those of the PIC16F84 class (93_implementation_defined.md G5, G6, G15). -/
def Params.launch : Params where
  stackDepth := 8
  progSize := 8192
  gpr := [(0, 127)]
  sfrMap := []
  resetVector := 0x0000
  resetPclatch := 0x00
  resetTo := true
  resetPd := true
  resetIrq := Irq.quiet
  intVector := 0x0004
  wdtEnabled := false
  wdtPeriod := 1
  tCycle := 4

/-- STATUS with the places of 93_implementation_defined.md G3: TO and PD read-only. PRESUMED. DESIGN CHOICE (log entry 14): where
STATUS is the destination of an instruction that writes Z, DC or C, G3 disables the data write to all three; here the data write
changes those the instruction does not flag (CLRF 03H clears C and DC), because the `wr` of 20_memory.md R62 sees the byte and the
state, not the instruction. -/
def statusLayout : List SfrBit :=
  [⟨.c, true⟩, ⟨.dc, true⟩, ⟨.z, true⟩, ⟨.pdFlag, false⟩, ⟨.toFlag, false⟩, ⟨.stored, true⟩, ⟨.stored, true⟩, ⟨.stored, true⟩]

/-- INTCON as 93_implementation_defined.md G4 gives it; the enable and flag of T0 are those of `other 0`. PRESUMED. -/
def intconLayout : List SfrBit :=
  [⟨.irqRequest .rbChange, true⟩, ⟨.irqRequest .rb0Int, true⟩, ⟨.irqRequest (.other 0), true⟩, ⟨.irqEnable .rbChange, true⟩,
    ⟨.irqEnable .rb0Int, true⟩, ⟨.irqEnable (.other 0), true⟩, ⟨.irqEnable .eeWrite, true⟩, ⟨.gie, true⟩]

/-- PCLATCH with the five bits of 93_implementation_defined.md G11; the others read as 0. PRESUMED. -/
def pclatchLayout : List SfrBit :=
  [⟨.pclatch 0, true⟩, ⟨.pclatch 1, true⟩, ⟨.pclatch 2, true⟩, ⟨.pclatch 3, true⟩, ⟨.pclatch 4, true⟩,
    ⟨.const false, false⟩, ⟨.const false, false⟩, ⟨.const false, false⟩]

/-- FSR, eight bits of storage (93_implementation_defined.md G2). PRESUMED. -/
def fsrLayout : List SfrBit :=
  [⟨.stored, true⟩, ⟨.stored, true⟩, ⟨.stored, true⟩, ⟨.stored, true⟩, ⟨.stored, true⟩, ⟨.stored, true⟩, ⟨.stored, true⟩,
    ⟨.stored, true⟩]

/-- A second instance of the parameters, the map of the PIC16F84 class (93_implementation_defined.md G2 to G6) for a modeller
who takes on that premise (20_memory.md R62): STATUS at 03H, PCLATCH at 0AH, INTCON at 0BH, storage at 0CH to 4FH; timers,
ports and EEPROM registers are devices; FSR at 04H is a byte of storage; INDF at 00H and PCL at 02H are general registers, whose
functions a claim may state (G2, G12). PRESUMED: no statement about the core rests on it. DESIGN CHOICE (log entry 6): this
instance leaves the banks of G2 out, so 01H, 05H, 06H, 08H and 09H are one device register each, whose accesses do not see STATUS bit
5 (RP0); a map with banks gives these addresses as general registers. 50H to 7FH are refused as the spec decides, not read as 0. -/
def Params.family : Params :=
  { Params.launch with
    progSize := 1024
    gpr := [(0x0C, 0x4F)]
    sfrMap := [(0x00, .general 0), (0x01, .device), (0x02, .general 2), (0x03, .layout statusLayout),
      (0x04, .layout fsrLayout), (0x05, .device), (0x06, .device), (0x08, .device), (0x09, .device),
      (0x0A, .layout pclatchLayout), (0x0B, .layout intconLayout)] }

/-- What an f register nothing has written reads as. DESIGN CHOICE, unsafe (log entry 1): D1 writes `??H`, and 10_state.md R39
forbids 00H; every bit is 1. -/
def Config.unlistedByte : Byte := 0xFF

/-- The value `State.reset` gives W. DESIGN CHOICE, unsafe (log entry 1). -/
def Config.resetW : Byte := 0xFF

/-- The value `State.reset` gives C, DC and Z. DESIGN CHOICE, unsafe (log entry 1). -/
def Config.resetFlag : Bool := true

/-- FREE VALUE (log entry 2): the byte with index `i` that the reset event with draw number `n` leaves in a register of no
known value (70_reset_and_hazards.md R280). -/
opaque Config.freeByte (n i : Nat) : Byte

/-- FREE VALUE (log entry 2): the flag with index `i` that the reset event with draw number `n` leaves
(70_reset_and_hazards.md R280). -/
opaque Config.freeBit (n i : Nat) : Bool

/-- FREE VALUE (log entry 6): the byte a device register at `f` answers when its devices are in the state `dev`
(20_memory.md R62, `rd`). -/
opaque Config.deviceByte (f dev : Nat) : Byte

/-- FREE VALUE (log entry 6): the devices' state after a read of the register at `f` (20_memory.md R62, `rd`). -/
opaque Config.deviceAfterRead (f dev : Nat) : Nat

/-- FREE VALUE (log entry 6): the devices' state after a write of `v` to the register at `f` (20_memory.md R62, `wr`). -/
opaque Config.deviceAfterWrite (f : Nat) (v : Byte) (dev : Nat) : Nat

/-- FREE VALUE (log entry 6): the devices' state after a reset. -/
opaque Config.deviceAfterReset (dev : Nat) : Nat

end Sys2Proof
end

