-- ==== Sys2Proof/Machine/State.lean ====
section
/-! DEFINITION. The state of the core (10_state.md R11, R20 to R37), the reasons a step can stop, and the state after reset. -/

namespace Sys2Proof.Machine

open Sys2Proof

/-- The f registers: (f, byte) pairs, f strictly rising, none equal to `Config.unlistedByte` (20_memory.md R60, R61). -/
abbrev Memory := List Host.Cell

/-- Program memory: (address, word) pairs, addresses strictly rising (20_memory.md R66, R68). -/
abbrev ProgMemory := List (Nat × InstrWord)

/-- What the world outside the core does at one instruction boundary. The State holds the schedule of these still to come, so a
statement about every State holds for every behaviour of the environment (60_exceptions.md R246, R256, R258). -/
structure Inputs where
  /-- The /MCLR pin asks for a reset (70_reset_and_hazards.md R280). -/
  mclr : Bool
  /-- The watchdog timer times out (60_exceptions.md R256, R257). -/
  wdtTimeout : Bool
  /-- By how much the hardware has advanced WDT (10_state.md R35). -/
  wdtTicks : Nat
  /-- By how much the hardware has advanced the prescaler (10_state.md R35). -/
  wdtpsTicks : Nat
  /-- The state the hardware leaves the interrupt sources in, or none where it does not touch them (60_exceptions.md R244). -/
  irq : Option Irq
  /-- The state the world leaves the devices in, or none where it does not touch them (20_memory.md R75: agents outside the core
  act through the entries of `SFR_MAP`). -/
  device : Option Nat
  /-- The core takes the interrupt at this boundary if it may (60_exceptions.md R246 admits both). -/
  accept : Bool
  deriving DecidableEq, Repr, Inhabited

/-- Nothing happens at the boundary. -/
def Inputs.quiet : Inputs := ⟨false, false, 0, 0, none, none, false⟩

/-- The state of the machine. -/
structure State where
  /-- W, the working register (10_state.md R20). -/
  w : Byte
  /-- PC, the address of the instruction to execute (10_state.md R24, R25). -/
  pc : PAddr
  /-- The carry flag of STATUS (10_state.md R29). -/
  c : Bool
  /-- The digit carry flag of STATUS (10_state.md R29). -/
  dc : Bool
  /-- The zero flag of STATUS (10_state.md R29). -/
  z : Bool
  /-- The TO flag of STATUS (10_state.md R29). -/
  toFlag : Bool
  /-- The PD flag of STATUS (10_state.md R29). -/
  pdFlag : Bool
  /-- GIE, bit 7 of INTCON (10_state.md R33). -/
  gie : Bool
  /-- PCLATCH (10_state.md R34). -/
  pclatch : Byte
  /-- The return-address stack, TOS last (10_state.md R31). -/
  stack : List PAddr
  /-- WDT, the watchdog counter (10_state.md R35). -/
  wdt : Nat
  /-- The watchdog prescaler (10_state.md R35). -/
  wdtps : Nat
  /-- True while the core is in power-down mode (10_state.md R36). -/
  sleeping : Bool
  /-- The f registers (10_state.md R21). -/
  mem : Memory
  /-- The interrupt sources, `IRQ` (10_state.md R37). -/
  irq : Irq
  /-- MODEL'S OWN: the state of the devices behind the special registers of `SFR_MAP`, which the opaque functions of Config and
  the inputs of a boundary move (log entries 6, 9). -/
  device : Nat
  /-- MODEL'S OWN: the inputs of the boundaries to come (log entry 9). -/
  inputs : List Inputs
  /-- MODEL'S OWN: the number of the next draw of free values (log entry 2). -/
  draws : Nat
  /-- PROG, a parameter of the step (20_memory.md R66): no step changes it (R79). -/
  prog : ProgMemory
  /-- The other OPEN parameters (00_scope.md R7): no step changes them. -/
  par : Params
  deriving DecidableEq, Repr, Inhabited

/-- Why the machine stops with a fault. -/
inductive Fault where
  /-- Raised by the fetch at an address below `PROG_SIZE` for which PROG lists no word: the spec gives PROG as a list of
  (address, word) pairs (20_memory.md R68) and no word for the others. Safe: the hardware goes on with some word (log entry 7). -/
  | unprogrammedWord
  deriving DecidableEq, Repr

/-- Why the machine gives a step no meaning: the closed list of 00_scope.md R13, and the model's own. All are safe: the
hardware goes on (92_eei_decisions.md D1). -/
inductive Refusal where
  /-- Raised by the step that fetches a word no row of the opcode map matches (30_encoding.md R104). Safe. -/
  | illegalEncoding
  /-- Raised by the fetch at an address not below `PROG_SIZE` (20_memory.md R66). Safe. -/
  | fetchOutOfRange
  /-- Raised by a read or write of an f that is neither in `GPR` nor in `SFR_MAP` (20_memory.md R63, R64). Safe. -/
  | fileNotMapped
  /-- Raised by CALL and by interrupt entry when the stack is full (10_state.md R31). Safe. -/
  | stackOverflow
  /-- Raised by RETURN, RETLW and RETFIE when the stack is empty (10_state.md R32). Safe. -/
  | stackUnderflow
  /-- Raised by exec for an instruction with no meaning yet: none is left. Safe. -/
  | notModelled (mnemonic : String)
  deriving DecidableEq, Repr

/-- The machine right after reset (10_state.md R40, 70_reset_and_hazards.md R280, R281), with the parameters of
`Params.launch`. W, C, DC and Z have no known value in the spec: DESIGN CHOICE (log entry 1). -/
def State.reset : State where
  w := Config.resetW
  pc := Params.launch.resetVector
  c := Config.resetFlag
  dc := Config.resetFlag
  z := Config.resetFlag
  toFlag := Params.launch.resetTo
  pdFlag := Params.launch.resetPd
  gie := false
  pclatch := Params.launch.resetPclatch
  stack := []
  wdt := 0
  wdtps := 0
  sleeping := false
  mem := []
  irq := Params.launch.resetIrq
  device := 0
  inputs := []
  draws := 0
  prog := []
  par := Params.launch

end Sys2Proof.Machine

namespace Sys2Proof

/-- FREE VALUE (log entry 6): what a read of the general special register number `id` returns, and the state it leaves: the `rd`
of 20_memory.md R62, any function of the state. -/
opaque Config.specialRead (id : Nat) (s : Machine.State) : Byte × Machine.State

/-- FREE VALUE (log entry 6): the state a write of `v` to the general special register number `id` leaves: the `wr` of
20_memory.md R62, any function of the state. -/
opaque Config.specialWrite (id : Nat) (v : Byte) (s : Machine.State) : Machine.State

end Sys2Proof
end

