-- ==== Sys2Proof/Machine/Flags.lean ====
section
/-! DEFINITION. The flag computations: AddFlags, SubFlags and the zero flag (40_byte_oriented.md R121, R122). -/

namespace Sys2Proof.Machine

open Sys2Proof

/-- `Z`: 1 when the 8-bit result is 00H (10_state.md R30). -/
def zeroFlag (r : Byte) : Bool := r == 0#8

/-- `C` of `a + b`: bit 8 of the 9-bit sum (40_byte_oriented.md R121). -/
def addCarry (a b : Byte) : Bool := (a.setWidth 9 + b.setWidth 9).getLsbD 8

/-- `DC` of `a + b`: bit 4 of the 5-bit sum of the low nibbles (40_byte_oriented.md R121). -/
def addDigitCarry (a b : Byte) : Bool :=
  ((a.extractLsb' 0 4).setWidth 5 + (b.extractLsb' 0 4).setWidth 5).getLsbD 4

/-- `C` of `m - s`: 1 when no borrow occurs (40_byte_oriented.md R122). -/
def subCarry (m s : Byte) : Bool := decide (s ≤ m)

/-- `DC` of `m - s`: 1 when the low nibbles borrow nothing (40_byte_oriented.md R122). -/
def subDigitCarry (m s : Byte) : Bool := decide (s.extractLsb' 0 4 ≤ m.extractLsb' 0 4)

/-- `Z` written from a result, the other flags kept. -/
def State.setZ (r : Byte) (s : State) : State := { s with z := zeroFlag r }

/-- `C` written, the other flags kept (40_byte_oriented.md R133, R134). -/
def State.setC (v : Bool) (s : State) : State := { s with c := v }

/-- `AddFlags(a, b)` (40_byte_oriented.md R121). -/
def State.addFlags (a b : Byte) (s : State) : State :=
  { s with c := addCarry a b, dc := addDigitCarry a b, z := zeroFlag (a + b) }

/-- `SubFlags(m, x)` (40_byte_oriented.md R122). -/
def State.subFlags (m x : Byte) (s : State) : State :=
  { s with c := subCarry m x, dc := subDigitCarry m x, z := zeroFlag (m - x) }

end Sys2Proof.Machine
end

