-- ==== Sys2Proof/Machine/Operands.lean ====
section
/-! DEFINITION. The operand forms: which register an f value designates, bits of a byte, literals, and the target of CALL and
GOTO. -/

namespace Sys2Proof.Machine

open Sys2Proof

/-- `f` lies in `GPR` (20_memory.md R61). -/
def inGpr (f : Nat) (p : Params) : Bool := p.gpr.any (fun r => decide (r.1 ≤ f) && decide (f ≤ r.2))

/-- What `f` designates: `GPR` first, then `SFR_MAP` (20_memory.md R63, R64); an f is 7 bits (10_state.md R21). -/
def fileKind (f : Nat) (p : Params) : FileKind :=
  if f < 128 then
    if inGpr f p then .plain
    else match p.sfrMap.lookup f with
      | some r => .special r
      | none => .unmapped
  else .unmapped

/-- The mask `00000001B << b` (41_bit_oriented.md R153). -/
def bitMask (b : Nat) : Byte := 1#8 <<< b

/-- `a & ~(00000001B << b)` (41_bit_oriented.md R151). -/
def clearBit (a : Byte) (b : Nat) : Byte := a &&& ~~~ (bitMask b)

/-- `a | (00000001B << b)` (41_bit_oriented.md R152). -/
def setBit (a : Byte) (b : Nat) : Byte := a ||| bitMask b

/-- `a` with bit `b` given the value `v`. -/
def putBit (a : Byte) (b : Nat) (v : Bool) : Byte := if v then setBit a b else clearBit a b

/-- The 8-bit literal, no extension, no sign (30_encoding.md R97, 42_literal.md R166). -/
def lit8 (k : Nat) : Byte := BitVec.ofNat 8 k

/-- The target of CALL and GOTO, `PCLATCH[4:3] ++ k` (20_memory.md R73). -/
def target (pclatch : Byte) (k : Nat) : PAddr := pclatch.extractLsb' 3 2 ++ BitVec.ofNat 11 k

/-- `a[6:0] ++ C` (40_byte_oriented.md R133). -/
def rotateLeft (a : Byte) (c : Bool) : Byte := a.extractLsb' 0 7 ++ BitVec.ofBool c

/-- `C ++ a[7:1]` (40_byte_oriented.md R134). -/
def rotateRight (a : Byte) (c : Bool) : Byte := BitVec.ofBool c ++ a.extractLsb' 1 7

/-- `a[3:0] ++ a[7:4]` (40_byte_oriented.md R136). -/
def swapNibbles (a : Byte) : Byte := a.extractLsb' 0 4 ++ a.extractLsb' 4 4

/-- A source that is neither enabled nor requesting nor able to wake: what a number stands for that no source has. -/
def quietSource : Source := ⟨false, false, false⟩

/-- The source at a position. -/
def sourceAt : List Source → Nat → Source
  | [], _ => quietSource
  | v :: _, 0 => v
  | _ :: l, n + 1 => sourceAt l n

/-- The source at a position replaced, with quiet sources below it where the list is too short. -/
def putSourceAt : List Source → Nat → Source → List Source
  | [], 0, v => [v]
  | [], n + 1, v => quietSource :: putSourceAt [] n v
  | _ :: l, 0, v => v :: l
  | u :: l, n + 1, v => u :: putSourceAt l n v

/-- The state of one interrupt source (60_exceptions.md R242). -/
def irqGet (src : SourceName) (q : Irq) : Source :=
  match src with
  | .rb0Int => q.rb0Int
  | .rbChange => q.rbChange
  | .eeWrite => q.eeWrite
  | .other n => sourceAt q.others n

/-- The interrupt sources with one of them replaced. -/
def irqPut (src : SourceName) (v : Source) (q : Irq) : Irq :=
  match src with
  | .rb0Int => { q with rb0Int := v }
  | .rbChange => { q with rbChange := v }
  | .eeWrite => { q with eeWrite := v }
  | .other n => { q with others := putSourceAt q.others n v }

/-- A source is both enabled and requesting. -/
def sourcePending (v : Source) : Bool := v.enable && v.request

/-- `IRQ.pending`: at least one source is both enabled and requesting (60_exceptions.md R244). -/
def irqPending (q : Irq) : Bool :=
  sourcePending q.rb0Int || sourcePending q.rbChange || sourcePending q.eeWrite
    || q.others.any sourcePending

/-- A source ends a sleep: it is enabled (45_system.md R222: with none enabled only a reset does) and in its waking condition. -/
def sourceWakes (v : Source) : Bool := v.enable && v.wake

/-- `IRQ.wake`: one of the three named sources ends a sleep (60_exceptions.md R244; R258 names no other source among the ways out
of sleep). -/
def irqWake (q : Irq) : Bool := sourceWakes q.rb0Int || sourceWakes q.rbChange || sourceWakes q.eeWrite

end Sys2Proof.Machine
end

