-- ==== Sys2Proof/Machine/Ops.lean ====
section
/-! DEFINITION. The named operations over the state: program memory and data memory, FileRead and FileWrite, the stack, the
program counter, interrupt entry and the return from it, reset and wake-up. -/

namespace Sys2Proof.Machine

open Sys2Proof

/-- What a meaning answers. -/
abbrev Result := Host.Outcome State Fault Refusal

/-- The byte at `x`; an unlisted one reads as `Config.unlistedByte`. -/
def memRead : Memory → Nat → Byte
  | [], _ => Config.unlistedByte
  | (a, v) :: m, x => if a = x then v else memRead m x

/-- Put a byte in front, unless it is what an unlisted address reads as. -/
def memCons (x : Nat) (v : Byte) (m : Memory) : Memory := if v = Config.unlistedByte then m else (x, v) :: m

/-- The byte at `x` becomes `v`; the canonical form is kept. -/
def memWrite : Memory → Nat → Byte → Memory
  | [], x, v => memCons x v []
  | (a, u) :: m, x, v =>
    if a < x then (a, u) :: memWrite m x v
    else if a = x then memCons x v m
    else memCons x v ((a, u) :: m)

/-- Addresses strictly rising from `lo`, all f values (below 128), no entry equal to what an unlisted address reads as. -/
def memWfFrom : Nat → Memory → Bool
  | _, [] => true
  | lo, (a, v) :: m => decide (lo ≤ a) && decide (a < 128) && decide (v ≠ Config.unlistedByte) && memWfFrom (a + 1) m

/-- The canonical form of the f registers. -/
def Memory.wf (m : Memory) : Bool := memWfFrom 0 m

/-- The f registers that read as `g` says, in canonical form. -/
@[irreducible] def cellsOf (g : Nat → Byte) : Memory := (List.range 128).foldl (fun m a => memWrite m a (g a)) []

/-- The word PROG lists at `x` (20_memory.md R66). -/
def progRead : ProgMemory → Nat → Option InstrWord
  | [], _ => none
  | (a, w) :: m, x => if a = x then some w else progRead m x

/-- PROG with the word at `x` replaced: no instruction does this (20_memory.md R79), only the loading of a program. -/
def progWrite : ProgMemory → Nat → InstrWord → ProgMemory
  | [], x, w => [(x, w)]
  | (a, u) :: m, x, w =>
    if a < x then (a, u) :: progWrite m x w
    else if a = x then (x, w) :: m
    else (x, w) :: (a, u) :: m

/-- Addresses strictly rising from `lo`, all 13-bit. -/
def progWfFrom : Nat → ProgMemory → Bool
  | _, [] => true
  | lo, (a, _) :: m => decide (lo ≤ a) && decide (a < 8192) && progWfFrom (a + 1) m

/-- The canonical form of program memory. -/
def ProgMemory.wf (m : ProgMemory) : Bool := progWfFrom 0 m

/-- What a fetch answers. -/
inductive Fetched where
  | word (w : InstrWord)
  | unprogrammed
  | outOfRange
  deriving DecidableEq, Repr

/-- `Fetch(pc)` (20_memory.md R66). -/
def fetch (s : State) : Fetched :=
  if s.pc.toNat < s.par.progSize then
    match progRead s.prog s.pc.toNat with
    | some w => .word w
    | none => .unprogrammed
  else .outOfRange

/-- What a bit of a special register at `f`, position `i`, reads as (20_memory.md R62). -/
def bitRead (f i : Nat) (src : BitSource) (s : State) : Bool :=
  match src with
  | .c => s.c
  | .dc => s.dc
  | .z => s.z
  | .toFlag => s.toFlag
  | .pdFlag => s.pdFlag
  | .gie => s.gie
  | .pclatch j => s.pclatch.getLsbD j
  | .irqEnable q => (irqGet q s.irq).enable
  | .irqRequest q => (irqGet q s.irq).request
  | .stored => (memRead s.mem f).getLsbD i
  | .const v => v

/-- What writing `v` to a bit of a special register at `f`, position `i`, does (20_memory.md R62). -/
def bitWrite (f i : Nat) (src : BitSource) (v : Bool) (s : State) : State :=
  match src with
  | .c => { s with c := v }
  | .dc => { s with dc := v }
  | .z => { s with z := v }
  | .toFlag => { s with toFlag := v }
  | .pdFlag => { s with pdFlag := v }
  | .gie => { s with gie := v }
  | .pclatch j => { s with pclatch := putBit s.pclatch j v }
  | .irqEnable q => { s with irq := irqPut q { irqGet q s.irq with enable := v } s.irq }
  | .irqRequest q => { s with irq := irqPut q { irqGet q s.irq with request := v } s.irq }
  | .stored => { s with mem := memWrite s.mem f (putBit (memRead s.mem f) i v) }
  | .const _ => s

/-- The byte the bits of a special register make, from position `i` on; bits the layout does not list read as 0. -/
def layoutRead (f : Nat) (s : State) : Nat → List SfrBit → Byte
  | _, [] => 0#8
  | i, b :: bs => (if bitRead f i b.source s then bitMask i else 0#8) ||| layoutRead f s (i + 1) bs

/-- A data write to a special register changes its writable bits, the lowest first (20_memory.md R62, R65). -/
def layoutWrite (f : Nat) (v : Byte) : Nat → List SfrBit → State → State
  | _, [], s => s
  | i, b :: bs, s =>
    layoutWrite f v (i + 1) bs (if b.writable then bitWrite f i b.source (v.getLsbD i) s else s)

/-- The state `new` that a function of a general special register gives, taken over from `old` (20_memory.md R62): every piece of
the spec's state, and the devices; PROG and the parameters are no state, the schedule and the draws are the model's, and the f
registers and the stack come in the form the machine holds them in. -/
def State.adopt (new old : State) : State :=
  { new with
    stack := new.stack.take old.par.stackDepth
    mem := cellsOf (memRead new.mem)
    inputs := old.inputs
    draws := old.draws
    prog := old.prog
    par := old.par }

/-- `FileRead(f)`: the byte and the state after the read's own effect; none where f is not mapped (20_memory.md R63). -/
def readFile (f : Nat) (s : State) : Option (Byte × State) :=
  match fileKind f s.par with
  | .plain => some (memRead s.mem f, s)
  | .special (.layout bits) => some (layoutRead f s 0 bits, s)
  | .special .device => some (Config.deviceByte f s.device, { s with device := Config.deviceAfterRead f s.device })
  | .special (.general id) => some ((Config.specialRead id s).1, (Config.specialRead id s).2.adopt s)
  | .unmapped => none

/-- `FileWrite(f, v)`; none where f is not mapped (20_memory.md R64). -/
def writeFile (f : Nat) (v : Byte) (s : State) : Option State :=
  match fileKind f s.par with
  | .plain => some { s with mem := memWrite s.mem f v }
  | .special (.layout bits) => some (layoutWrite f v 0 bits s)
  | .special .device => some { s with device := Config.deviceAfterWrite f v s.device }
  | .special (.general id) => some ((Config.specialWrite id v s).adopt s)
  | .unmapped => none

/-- Go on with the byte read from `f`, or refuse (20_memory.md R63). -/
def withFile (f : Nat) (s : State) (k : Byte → State → Result) : Result :=
  match readFile f s with
  | some (a, t) => k a t
  | none => .refused .fileNotMapped

/-- Go on after writing `v` to `f`, or refuse (20_memory.md R64). -/
def storeFile (f : Nat) (v : Byte) (s : State) (k : State → Result) : Result :=
  match writeFile f v s with
  | some t => k t
  | none => .refused .fileNotMapped

/-- W written. -/
def State.setW (v : Byte) (s : State) : State := { s with w := v }

/-- `Dest(d, f, v)` (40_byte_oriented.md R120): the write, before any flag update (20_memory.md R65). -/
def storeDest (d : Dest) (f : Nat) (v : Byte) (s : State) (k : State → Result) : Result :=
  match d with
  | .w => k (s.setW v)
  | .f => storeFile f v s k

/-- `pc <- pc + 1` modulo 2^13 (10_state.md R27). Where a general special register has assigned pc, the 1 is added to what it
assigned (log entry 6). -/
def State.advance (s : State) : State := { s with pc := s.pc + 1 }

/-- `Skip()`: `pc <- pc + 2` modulo 2^13 (43_skip.md R180). -/
def State.skipNext (s : State) : State := { s with pc := s.pc + 2 }

/-- `pc <- a`. -/
def State.jump (a : PAddr) (s : State) : State := { s with pc := a }

/-- Skip when the condition holds, else go on in sequence (43_skip.md R180). -/
def State.skipWhen (cond : Bool) (s : State) : State := if cond then s.skipNext else s.advance

/-- GIE written. -/
def State.setGie (v : Bool) (s : State) : State := { s with gie := v }

/-- The stack replaced. -/
def State.setStack (l : List PAddr) (s : State) : State := { s with stack := l }

/-- `Push(a)` (10_state.md R31): none where the stack already holds `STACK_DEPTH` addresses. -/
def push (a : PAddr) (s : State) : Option State :=
  if s.stack.length < s.par.stackDepth then some (s.setStack (s.stack ++ [a])) else none

/-- `Pop()` (10_state.md R32): TOS and the state without it; none where the stack is empty. -/
def pop (s : State) : Option (PAddr × State) :=
  match s.stack.getLast? with
  | some a => some (a, s.setStack s.stack.dropLast)
  | none => none

/-- Push `a` and go to `dest`, or refuse (10_state.md R31). -/
def pushAndJump (a dest : PAddr) (s : State) : Result :=
  match push a s with
  | some t => .next (t.jump dest)
  | none => .refused .stackOverflow

/-- `pc <- Pop()`, or refuse (10_state.md R32). -/
def popToPc (s : State) : Result :=
  match pop s with
  | some (a, t) => .next (t.jump a)
  | none => .refused .stackUnderflow

/-- INTERRUPT ENTRY, the one exception of the core (60_exceptions.md R240, R247): `Push(pc); GIE <- 0; pc <- INT_VECTOR`,
where pc is the address of the instruction that would have executed next. Nothing else is saved (R248). -/
def takeInterrupt (s : State) : Result := pushAndJump s.pc s.par.intVector (s.setGie false)

/-- RETURN FROM INTERRUPT: `pc <- Pop(); GIE <- 1`, nothing else restored (44_control_transfer.md R202, 60_exceptions.md R249). -/
def returnFromInterrupt (s : State) : Result := popToPc (s.setGie true)

/-- WDT and its prescaler cleared, TO set, PD given (45_system.md R220, R222). -/
def State.clearWatchdog (pdVal : Bool) (s : State) : State := { s with wdt := 0, wdtps := 0, toFlag := true, pdFlag := pdVal }

/-- Power-down mode entered or left (10_state.md R36). -/
def State.setSleeping (v : Bool) (s : State) : State := { s with sleeping := v }

/-- TO written (60_exceptions.md R257). -/
def State.setTo (v : Bool) (s : State) : State := { s with toFlag := v }

/-- The f registers with no known value, by draw number `n`: a free byte at each of the 128 addresses
(70_reset_and_hazards.md R280, 10_state.md R39). -/
def unknownCells (n : Nat) : Memory := cellsOf (Config.freeByte n)

/-- THE RESET EVENT (70_reset_and_hazards.md R280) but for TO and PD, which are given because a WDT reset differs in TO
(60_exceptions.md R256): W, the f registers, C, DC and Z hold no known value after it and become free values (log entry 2); IRQ takes
its parameter (10_state.md R40). -/
def resetEvent (toVal pdVal : Bool) (s : State) : State :=
  { s with
    w := Config.freeByte s.draws 128
    pc := s.par.resetVector
    c := Config.freeBit s.draws 0
    dc := Config.freeBit s.draws 1
    z := Config.freeBit s.draws 2
    toFlag := toVal
    pdFlag := pdVal
    gie := false
    pclatch := s.par.resetPclatch
    stack := []
    wdt := 0
    wdtps := 0
    sleeping := false
    mem := unknownCells s.draws
    irq := s.par.resetIrq
    device := Config.deviceAfterReset s.device
    draws := s.draws + 1 }

/-- The inputs at this boundary: the head of the schedule, or nothing where the schedule is over. -/
def inputsNow (s : State) : Inputs := s.inputs.headD Inputs.quiet

/-- The boundary passes: its inputs are used up, the hardware has advanced the counters and left the interrupt sources and the
devices as its inputs say (10_state.md R35, 60_exceptions.md R244, 20_memory.md R75). -/
def State.latchInputs (s : State) : State :=
  { s with
    inputs := s.inputs.tail
    wdt := s.wdt + (inputsNow s).wdtTicks
    wdtps := s.wdtps + (inputsNow s).wdtpsTicks
    irq := (inputsNow s).irq.getD s.irq
    device := (inputsNow s).device.getD s.device }

/-- What happens at an instruction boundary. -/
inductive Event where
  /-- /MCLR reset (70_reset_and_hazards.md R280). -/
  | reset
  /-- WDT time-out while running, a reset (60_exceptions.md R256). -/
  | wdtReset
  /-- WDT time-out while sleeping (60_exceptions.md R257). -/
  | wdtWake
  /-- Wake-up by an interrupt source (60_exceptions.md R259). -/
  | irqWake
  /-- The core sleeps on: it has no step of its own (10_state.md R36). -/
  | idle
  /-- Interrupt entry (60_exceptions.md R247). -/
  | interrupt
  /-- The instruction at pc (20_memory.md R67). -/
  | execute
  deriving DecidableEq, Repr

/-- The order of simultaneous events: reset, then WDT, then interrupt (60_exceptions.md R251, 93_implementation_defined.md U17);
an interrupt is taken only with GIE = 1 and a pending request, and may be left (R246). -/
def chooseEvent (inp : Inputs) (s : State) : Event :=
  if inp.mclr then .reset
  else if inp.wdtTimeout && s.par.wdtEnabled then (if s.sleeping then .wdtWake else .wdtReset)
  else if s.sleeping then (if irqWake s.irq then .irqWake else .idle)
  else if inp.accept && s.gie && irqPending s.irq then .interrupt
  else .execute

end Sys2Proof.Machine
end

