-- ==== Sys2Proof/Machine/BitOriented.lean ====
section
/-! DEFINITION. Bit clear and bit set (41_bit_oriented.md): a read of the whole register, then a write of it (R150). -/

namespace Sys2Proof.Machine

open Sys2Proof

/-- BCF f,b (41_bit_oriented.md R151): no flag as a side effect. -/
def execBcf (f b : Nat) (s : State) : Result :=
  withFile f s fun a t => storeFile f (clearBit a b) t fun u => .next u.advance

/-- BSF f,b (41_bit_oriented.md R152): no flag as a side effect. -/
def execBsf (f b : Nat) (s : State) : Result :=
  withFile f s fun a t => storeFile f (setBit a b) t fun u => .next u.advance

end Sys2Proof.Machine
end

