-- ==== Sys2Proof/Machine/ByteOriented.lean ====
section
/-! DEFINITION. The register (byte-oriented) instructions (40_byte_oriented.md). -/

namespace Sys2Proof.Machine

open Sys2Proof

/-- Shape of the instructions that compute `r` from `f` and W and write Z from it (R124, R130, R137 and the like): the data
write first, the flag second (20_memory.md R65). -/
def fileOpZ (f : Nat) (d : Dest) (op : Byte → Byte) (s : State) : Result :=
  withFile f s fun a t => storeDest d f (op a) t fun u => .next ((u.setZ (op a)).advance)

/-- ADDWF f,d (40_byte_oriented.md R123). -/
def execAddwf (f : Nat) (d : Dest) (s : State) : Result :=
  withFile f s fun a t => storeDest d f (a + s.w) t fun u => .next ((u.addFlags a s.w).advance)

/-- ANDWF f,d (40_byte_oriented.md R124). -/
def execAndwf (f : Nat) (d : Dest) (s : State) : Result := fileOpZ f d (fun a => s.w &&& a) s

/-- CLRF f (40_byte_oriented.md R125): the register is not read. -/
def execClrf (f : Nat) (s : State) : Result :=
  storeFile f 0#8 s fun t => .next ((t.setZ 0#8).advance)

/-- CLRW (40_byte_oriented.md R126). -/
def execClrw (s : State) : Result := .next (((s.setW 0#8).setZ 0#8).advance)

/-- COMF f,d (40_byte_oriented.md R127). -/
def execComf (f : Nat) (d : Dest) (s : State) : Result := fileOpZ f d (fun a => ~~~ a) s

/-- DECF f,d (40_byte_oriented.md R128). -/
def execDecf (f : Nat) (d : Dest) (s : State) : Result := fileOpZ f d (fun a => a - 1#8) s

/-- INCF f,d (40_byte_oriented.md R129). -/
def execIncf (f : Nat) (d : Dest) (s : State) : Result := fileOpZ f d (fun a => a + 1#8) s

/-- IORWF f,d (40_byte_oriented.md R130). -/
def execIorwf (f : Nat) (d : Dest) (s : State) : Result := fileOpZ f d (fun a => s.w ||| a) s

/-- MOVF f,d (40_byte_oriented.md R131): with d = 1 the write is still performed. -/
def execMovf (f : Nat) (d : Dest) (s : State) : Result := fileOpZ f d (fun a => a) s

/-- MOVWF f (40_byte_oriented.md R132): the register is not read, no flag is written. -/
def execMovwf (f : Nat) (s : State) : Result := storeFile f s.w s fun t => .next t.advance

/-- RLF f,d (40_byte_oriented.md R133): the C shifted in is the C before the instruction. -/
def execRlf (f : Nat) (d : Dest) (s : State) : Result :=
  withFile f s fun a t => storeDest d f (rotateLeft a s.c) t fun u => .next ((u.setC (a.getLsbD 7)).advance)

/-- RRF f,d (40_byte_oriented.md R134): the C shifted in is the C before the instruction. -/
def execRrf (f : Nat) (d : Dest) (s : State) : Result :=
  withFile f s fun a t => storeDest d f (rotateRight a s.c) t fun u => .next ((u.setC (a.getLsbD 0)).advance)

/-- SUBWF f,d (40_byte_oriented.md R135): (f) - (W). -/
def execSubwf (f : Nat) (d : Dest) (s : State) : Result :=
  withFile f s fun a t => storeDest d f (a - s.w) t fun u => .next ((u.subFlags a s.w).advance)

/-- SWAPF f,d (40_byte_oriented.md R136): no flag. -/
def execSwapf (f : Nat) (d : Dest) (s : State) : Result :=
  withFile f s fun a t => storeDest d f (swapNibbles a) t fun u => .next u.advance

/-- XORWF f,d (40_byte_oriented.md R137). -/
def execXorwf (f : Nat) (d : Dest) (s : State) : Result := fileOpZ f d (fun a => s.w ^^^ a) s

end Sys2Proof.Machine
end

