-- ==== Sys2Proof/Machine/ControlTransfer.lean ====
section
/-! DEFINITION. The control transfers (44_control_transfer.md). -/

namespace Sys2Proof.Machine

open Sys2Proof

/-- CALL k (44_control_transfer.md R200): the return address is pc + 1 modulo 2^13. -/
def execCall (k : Nat) (s : State) : Result := pushAndJump (s.pc + 1) (target s.pclatch k) s

/-- GOTO k (44_control_transfer.md R201). -/
def execGoto (k : Nat) (s : State) : Result := .next (s.jump (target s.pclatch k))

/-- RETFIE (44_control_transfer.md R202). -/
def execRetfie (s : State) : Result := returnFromInterrupt s

/-- RETLW k (44_control_transfer.md R203): no flag. -/
def execRetlw (k : Nat) (s : State) : Result := popToPc (s.setW (lit8 k))

/-- RETURN (44_control_transfer.md R204). -/
def execRet (s : State) : Result := popToPc s

end Sys2Proof.Machine
end

