-- ==== Sys2Proof/Machine/Literal.lean ====
section
/-! DEFINITION. The literal instructions (42_literal.md). -/

namespace Sys2Proof.Machine

open Sys2Proof

/-- ADDLW k (42_literal.md R160). -/
def execAddlw (k : Nat) (s : State) : Result :=
  .next (((s.setW (s.w + lit8 k)).addFlags s.w (lit8 k)).advance)

/-- ANDLW k (42_literal.md R161). -/
def execAndlw (k : Nat) (s : State) : Result :=
  .next (((s.setW (s.w &&& lit8 k)).setZ (s.w &&& lit8 k)).advance)

/-- IORLW k (42_literal.md R162). -/
def execIorlw (k : Nat) (s : State) : Result :=
  .next (((s.setW (s.w ||| lit8 k)).setZ (s.w ||| lit8 k)).advance)

/-- MOVLW k (42_literal.md R163): no flag. -/
def execMovlw (k : Nat) (s : State) : Result := .next ((s.setW (lit8 k)).advance)

/-- SUBLW k (42_literal.md R164): k - (W). -/
def execSublw (k : Nat) (s : State) : Result :=
  .next (((s.setW (lit8 k - s.w)).subFlags (lit8 k) s.w).advance)

/-- XORLW k (42_literal.md R165). -/
def execXorlw (k : Nat) (s : State) : Result :=
  .next (((s.setW (s.w ^^^ lit8 k)).setZ (s.w ^^^ lit8 k)).advance)

end Sys2Proof.Machine
end

