-- ==== Sys2Proof/Machine/Skip.lean ====
section
/-! DEFINITION. The conditional skips (43_skip.md). The skipped word is neither fetched nor decoded (R180). -/

namespace Sys2Proof.Machine

open Sys2Proof

/-- BTFSC f,b (43_skip.md R181): the register is read and not written. -/
def execBtfsc (f b : Nat) (s : State) : Result :=
  withFile f s fun a t => .next (t.skipWhen (!a.getLsbD b))

/-- BTFSS f,b (43_skip.md R182): the register is read and not written. -/
def execBtfss (f b : Nat) (s : State) : Result :=
  withFile f s fun a t => .next (t.skipWhen (a.getLsbD b))

/-- DECFSZ f,d (43_skip.md R183): the test is on the result; no flag. -/
def execDecfsz (f : Nat) (d : Dest) (s : State) : Result :=
  withFile f s fun a t => storeDest d f (a - 1#8) t fun u => .next (u.skipWhen (zeroFlag (a - 1#8)))

/-- INCFSZ f,d (43_skip.md R184): the test is on the result; no flag. -/
def execIncfsz (f : Nat) (d : Dest) (s : State) : Result :=
  withFile f s fun a t => storeDest d f (a + 1#8) t fun u => .next (u.skipWhen (zeroFlag (a + 1#8)))

end Sys2Proof.Machine
end

