-- ==== Sys2Proof/Machine/System.lean ====
section
/-! DEFINITION. The system instructions (45_system.md). -/

namespace Sys2Proof.Machine

open Sys2Proof

/-- CLRWDT (45_system.md R220). -/
def execClrwdt (s : State) : Result := .next ((s.clearWatchdog true).advance)

/-- NOP (45_system.md R221). -/
def execNop (s : State) : Result := .next s.advance

/-- SLEEP (45_system.md R222): it resumes at the address after it. -/
def execSleep (s : State) : Result := .next (((s.clearWatchdog false).setSleeping true).advance)

end Sys2Proof.Machine
end

