-- ==== Sys2Proof/Machine/Execute.lean ====
section
/-! DEFINITION. One step of the core at an instruction boundary (20_memory.md R67, 60_exceptions.md R246, R251), the loading of
a word where the next step fetches it, and the cycles an instruction takes (70_reset_and_hazards.md R292). -/

namespace Sys2Proof.Machine

open Sys2Proof

/-- Fetch, decode and perform the instruction at pc (20_memory.md R67). -/
def executeNext (s : State) : Result :=
  match fetch s with
  | .outOfRange => .refused .fetchOutOfRange
  | .unprogrammed => .fault .unprogrammedWord
  | .word w =>
    match decode w with
    | .illegalEncoding => .refused .illegalEncoding
    | .instr i => exec i s

/-- What an event does to the state (60_exceptions.md R247, R256, R257, R259, R260, 70_reset_and_hazards.md R280). A /MCLR reset does
the same whether the core sleeps or runs: TO and PD take their parameters (R280; log entry 16). -/
def runEvent (e : Event) (s : State) : Result :=
  match e with
  | .reset => .next (resetEvent s.par.resetTo s.par.resetPd s)
  | .wdtReset => .next (resetEvent false s.par.resetPd s)
  | .wdtWake => .next ((s.setSleeping false).setTo false)
  | .irqWake => .next (s.setSleeping false)
  | .idle => .next s
  | .interrupt => takeInterrupt s
  | .execute => executeNext s

/-- One boundary: the inputs are taken in, then one event happens (60_exceptions.md R251). -/
def boundary (s : State) : Result := runEvent (chooseEvent (inputsNow s) s.latchInputs) s.latchInputs

/-- `s` with the word stored at pc, and with what it takes for the next step to fetch and run it: an implemented address, the
core awake, nothing happening at the boundary. -/
def loadWordAtPc (w : InstrWord) (s : State) : State :=
  { s with
    prog := progWrite s.prog s.pc.toNat w
    par := { s.par with progSize := max s.par.progSize (s.pc.toNat + 1) }
    sleeping := false
    inputs := [] }

/-- The cycles of a conditional skip on the byte of `f`: 2 when it skips, else 1 (43_skip.md R180, 70_reset_and_hazards.md R292). -/
def skipCycles (f : Nat) (skips : Byte → Bool) (s : State) : Nat :=
  match readFile f s with
  | some (a, _) => if skips a then 2 else 1
  | none => 1

/-- The cycles an instruction takes when it is executed in `s` (70_reset_and_hazards.md R292). Timing only: no step reads it
(R291). DESIGN CHOICE (log entry 17): an instruction that is refused counts as its row says, a refused skip as 1. -/
def cycles (i : Instr) (s : State) : Nat :=
  match i with
  | .btfsc f b => skipCycles f (fun a => !a.getLsbD b) s
  | .btfss f b => skipCycles f (fun a => a.getLsbD b) s
  | .decfsz f _ => skipCycles f (fun a => zeroFlag (a - 1#8)) s
  | .incfsz f _ => skipCycles f (fun a => zeroFlag (a + 1#8)) s
  | .call _ => 2
  | .goto _ => 2
  | .retfie => 2
  | .retlw _ => 2
  | .ret => 2
  | .addlw _ => 1
  | .addwf _ _ => 1
  | .andlw _ => 1
  | .andwf _ _ => 1
  | .bcf _ _ => 1
  | .bsf _ _ => 1
  | .clrf _ => 1
  | .clrw => 1
  | .clrwdt => 1
  | .comf _ _ => 1
  | .decf _ _ => 1
  | .incf _ _ => 1
  | .iorlw _ => 1
  | .iorwf _ _ => 1
  | .movlw _ => 1
  | .movf _ _ => 1
  | .movwf _ => 1
  | .nop => 1
  | .rlf _ _ => 1
  | .rrf _ _ => 1
  | .sleep => 1
  | .sublw _ => 1
  | .subwf _ _ => 1
  | .swapf _ _ => 1
  | .xorlw _ => 1
  | .xorwf _ _ => 1

/-- The time of an instruction, in the unit of `T_CYCLE` (70_reset_and_hazards.md R291). -/
def instrTime (i : Instr) (s : State) : Nat := cycles i s * s.par.tCycle

/-- The cycles of one step: those of the instruction it executes (70_reset_and_hazards.md R292). DESIGN CHOICE (log entry 17),
since the spec gives none: the other events count 0; a step that decodes an instruction and is refused counts that instruction's
cycles (2 for a refused CALL or return, 1 for a refused instruction with an f operand); an unassigned word, and a fetch that
gives no word, count 0. -/
def stepCycles (s : State) : Nat :=
  match chooseEvent (inputsNow s) s.latchInputs, fetch s.latchInputs with
  | .execute, .word w =>
    match decode w with
    | .instr i => cycles i s.latchInputs
    | .illegalEncoding => 0
  | _, _ => 0

/-- The cycles of `n` steps: the sum over the instructions executed (70_reset_and_hazards.md R293). -/
def runCycles : Nat → State → Nat
  | 0, _ => 0
  | n + 1, s =>
    stepCycles s +
      match boundary s with
      | .next t => runCycles n t
      | _ => 0

end Sys2Proof.Machine
end

