-- ==== Sys2Proof/Machine/Step.lean ====
section
/-! DEFINITION. The step of the machine, and a state whose next step runs a given word. -/

namespace Sys2Proof.Machine

open Sys2Proof

/-- One step: one instruction boundary (20_memory.md R67, 60_exceptions.md R246, R251, R258). -/
def step (s : State) : Host.Outcome State Fault Refusal := boundary s

/-- `s` with the word whose bits are `w` (numbered as spec/opcode_table.json numbers them) stored where the next step fetches. -/
def State.withFetchWord (s : State) (nbits w : Nat) : State := loadWordAtPc (BitVec.ofNat 14 (w % 2 ^ nbits)) s

end Sys2Proof.Machine
end

