-- ==== Sys2Proof/Safety.lean ====
section
/-! DEFINITION. The terms claims are stated in: the invariant, frames, the tables of what an instruction may write, quiet
boundaries, and the end of a run. -/

namespace Sys2Proof.Machine

open Sys2Proof

/-- The invariant of the machine: both memories in canonical form, no more return addresses than `STACK_DEPTH`
(10_state.md R31), parameters within the spec's bounds (00_scope.md R7). -/
abbrev Inv (s : State) : Prop :=
  s.mem.wf = true ∧ s.prog.wf = true ∧ s.stack.length ≤ s.par.stackDepth ∧ s.par.wf = true

/-- A step goes on: it neither faults nor is refused. -/
def StepGoesOn (s : State) : Prop := ∃ t, step s = .next t

/-! Frames -/

/-- Every f register reads as before. -/
def KeepsFiles (s t : State) : Prop := ∀ a, memRead t.mem a = memRead s.mem a

/-- The f register `f` reads `v`, every other one as before. -/
def Stores (f : Nat) (v : Byte) (s t : State) : Prop :=
  ∀ a, memRead t.mem a = if a = f then v else memRead s.mem a

/-- The destination of format FD gets `v`: W or the f register, and the other one is as before (40_byte_oriented.md R120). -/
def DestGets (d : Dest) (f : Nat) (v : Byte) (s t : State) : Prop :=
  match d with
  | .w => t.w = v ∧ KeepsFiles s t
  | .f => t.w = s.w ∧ Stores f v s t

/-- C, DC and Z are as before. -/
def KeepsFlags (s t : State) : Prop := t.c = s.c ∧ t.dc = s.dc ∧ t.z = s.z

/-- Everything but W, the f registers, pc and C, DC, Z is as before. -/
def KeepsControl (s t : State) : Prop :=
  t.toFlag = s.toFlag ∧ t.pdFlag = s.pdFlag ∧ t.gie = s.gie ∧ t.pclatch = s.pclatch ∧ t.stack = s.stack ∧
  t.wdt = s.wdt ∧ t.wdtps = s.wdtps ∧ t.sleeping = s.sleeping ∧ t.irq = s.irq ∧ t.device = s.device ∧
  t.inputs = s.inputs ∧ t.draws = s.draws ∧ t.prog = s.prog ∧ t.par = s.par

/-- The write of the destination by itself (40_byte_oriented.md R120): none where `f` is not mapped. -/
def writeDest (d : Dest) (f : Nat) (v : Byte) (s : State) : Option State :=
  match d with
  | .w => some { s with w := v }
  | .f => writeFile f v s

/-! What an instruction may touch -/

/-- The f operand of an instruction, for the twenty that have one (20_memory.md R80). -/
def fileOperand : Instr → Option Nat
  | .addwf f _ => some f
  | .andwf f _ => some f
  | .bcf f _ => some f
  | .bsf f _ => some f
  | .btfsc f _ => some f
  | .btfss f _ => some f
  | .clrf f => some f
  | .comf f _ => some f
  | .decf f _ => some f
  | .decfsz f _ => some f
  | .incf f _ => some f
  | .incfsz f _ => some f
  | .iorwf f _ => some f
  | .movf f _ => some f
  | .movwf f => some f
  | .rlf f _ => some f
  | .rrf f _ => some f
  | .subwf f _ => some f
  | .swapf f _ => some f
  | .xorwf f _ => some f
  | .addlw _ => none
  | .andlw _ => none
  | .call _ => none
  | .clrw => none
  | .clrwdt => none
  | .goto _ => none
  | .iorlw _ => none
  | .movlw _ => none
  | .nop => none
  | .retfie => none
  | .retlw _ => none
  | .ret => none
  | .sleep => none
  | .sublw _ => none
  | .xorlw _ => none

/-- The instruction has an f operand that designates a special register (20_memory.md R62). -/
def TouchesSpecial (i : Instr) (s : State) : Prop :=
  ∃ f r, fileOperand i = some f ∧ fileKind f s.par = .special r

/-- The register's functions are general: they may reach any state (20_memory.md R62). -/
def sfrIsGeneral : Sfr → Bool
  | .general _ => true
  | .layout _ => false
  | .device => false

/-- The instruction has an f operand that designates a general special register. -/
def TouchesGeneral (i : Instr) (s : State) : Prop :=
  ∃ f id, fileOperand i = some f ∧ fileKind f s.par = .special (.general id)

/-- The state `u` is what a read of `f`, a write of it, or a read and then a write of it leave (20_memory.md R70). -/
def Accessed (f : Nat) (s u : State) : Prop :=
  (∃ a, readFile f s = some (a, u)) ∨ (∃ v, writeFile f v s = some u) ∨
    ∃ a t v, readFile f s = some (a, t) ∧ writeFile f v t = some u

/-- The accesses to `f` that an instruction in `s` makes, the first of them giving `t`, leave pc alone. -/
def AccessKeepsPc (f : Nat) (d : Dest) (s t : State) : Prop :=
  t.pc = s.pc ∧ ∀ v u, (writeDest d f v t = some u ∨ writeFile f v t = some u ∨ writeFile f v s = some u) → u.pc = s.pc

/-- The instructions that write C, DC and Z (10_state.md R30, first row). -/
def writesAllArith : Instr → Bool
  | .addlw _ | .addwf _ _ | .sublw _ | .subwf _ _ => true
  | _ => false

/-- The instructions that write Z only (10_state.md R30, second row). -/
def writesZOnly : Instr → Bool
  | .andlw _ | .andwf _ _ | .clrf _ | .clrw | .comf _ _ | .decf _ _ | .incf _ _ | .iorlw _ | .iorwf _ _ | .movf _ _
  | .xorlw _ | .xorwf _ _ => true
  | _ => false

/-- The instructions that write C only (10_state.md R30, third row). -/
def writesCOnly : Instr → Bool
  | .rlf _ _ | .rrf _ _ => true
  | _ => false

/-- The instructions that write TO and PD (10_state.md R30, fourth row). -/
def writesToPd : Instr → Bool
  | .clrwdt | .sleep => true
  | _ => false

/-- CALL and the returns, the instructions that reach the stack (10_state.md R32). -/
def reachesStack : Instr → Bool
  | .call _ | .ret | .retlw _ | .retfie => true
  | _ => false

/-- The conditional skips (10_state.md R26, third row). -/
def isSkip : Instr → Bool
  | .btfsc _ _ | .btfss _ _ | .decfsz _ _ | .incfsz _ _ => true
  | _ => false

/-- The instructions of 2 cycles (70_reset_and_hazards.md R292, last row). -/
def isTransfer : Instr → Bool
  | .call _ | .goto _ | .retfie | .retlw _ | .ret => true
  | _ => false

/-- The don't-care bits of an instruction's pattern (30_encoding.md R98). -/
def dontCareMask : Instr → InstrWord
  | .addlw _ => 0x0100
  | .sublw _ => 0x0100
  | .movlw _ => 0x0300
  | .retlw _ => 0x0300
  | .nop => 0x0060
  | _ => 0x0000

/-! Special registers -/

/-- A data write changes this bit: it is writable and no constant. -/
def changedByWrite (b : SfrBit) : Bool :=
  match b.source with
  | .const _ => false
  | _ => b.writable

/-! Boundaries -/

/-- No reset and no effective watchdog time-out at this boundary. -/
def NoResetNow (s : State) : Prop :=
  (inputsNow s).mclr = false ∧ ((inputsNow s).wdtTimeout && s.par.wdtEnabled) = false

/-- The interrupt sources as this boundary leaves them (60_exceptions.md R244). -/
def irqNow (s : State) : Irq := (inputsNow s).irq.getD s.irq

/-- The devices as this boundary leaves them (20_memory.md R75). -/
def deviceNow (s : State) : Nat := (inputsNow s).device.getD s.device

/-- The interrupt is accepted at this boundary: GIE is 1, a request is pending, and the core takes it (60_exceptions.md R246). -/
def AcceptsNow (s : State) : Prop := (inputsNow s).accept = true ∧ s.gie = true ∧ irqPending (irqNow s) = true

/-- The next step executes an instruction: awake, no reset, no time-out, no interrupt accepted (20_memory.md R67). -/
def ExecutesNow (s : State) : Prop := NoResetNow s ∧ s.sleeping = false ∧ ¬ AcceptsNow s

/-- The time-out respects `WDT_PERIOD`: a premise by which a claim may supply its timing argument (60_exceptions.md R256). DESIGN
CHOICE (log entry 12): the spec gives the period no unit and no relation to the counters; here it is measured in counts of WDT
since it was last cleared, the prescaler left out. -/
def TimelyWatchdog (s : State) : Prop :=
  (inputsNow s).wdtTimeout = true → s.par.wdtPeriod < s.wdt + (inputsNow s).wdtTicks

/-- No reset can come: the watchdog is disabled and no boundary to come asks for a /MCLR reset. -/
def NoResetToCome (s : State) : Prop := s.par.wdtEnabled = false ∧ ∀ inp ∈ s.inputs, inp.mclr = false

/-- The interrupt sources never have the property, as they are and as the boundaries to come leave them. -/
def IrqNever (p : Irq → Bool) (s : State) : Prop :=
  p s.irq = false ∧ ∀ inp ∈ s.inputs, ∀ q, inp.irq = some q → p q = false

/-- The run is over (70_reset_and_hazards.md R283): no reset can come, and the core sleeps with no source ever able to wake it, or
is awake at a GOTO to its own address with no interrupt able to be taken (GIE = 0, or nothing ever pending). Where the schedule of
inputs has ended nothing more happens (log entry 9). -/
def RunOver (s : State) : Prop :=
  NoResetToCome s ∧
    ((s.sleeping = true ∧ IrqNever irqWake s) ∨
      (s.sleeping = false ∧ (s.gie = false ∨ IrqNever irqPending s) ∧
        ∃ w k, fetch s = .word w ∧ decode w = .instr (.goto k) ∧ target s.pclatch k = s.pc))

/-- The same instruction performed `n` times over. -/
def repeatExec (i : Instr) : Nat → State → Result
  | 0, s => .next s
  | n + 1, s =>
    match exec i s with
    | .next t => repeatExec i n t
    | r => r

end Sys2Proof.Machine
end

