-- ==== Sys2Proof/Certificates/Slice0/Obligations.lean ====
section
/-! DEFINITION. The statements for the provers. A statement whose docstring names a log entry or a decision of the spec rests on
a choice that is not D1's. -/

open Sys2Proof Sys2Proof.Machine

/-! ## Encoding -/

/-- Decode and encode agree on every well-formed instruction, every operand at every value the encoding admits
(30_encoding.md sections 2, 3, 6: R91 to R97, R112). -/
def Obligations.DecodeInvertsEncode : Prop :=
  ∀ i : Instr, wellFormed i = true → decode (encode i) = .instr i

/-- What the decoder reads is well-formed, and encoding it gives the word back with its don't-care bits 0
(30_encoding.md sections 3 and 6). -/
def Obligations.EncodeOfDecodeClearsDontCareBits : Prop :=
  ∀ (w : InstrWord) (i : Instr), decode w = .instr i →
    wellFormed i = true ∧ encode i = w &&& ~~~ (dontCareMask i)

/-- The value of a don't-care bit has no effect: changing any of them leaves the instruction the same, and the encoder emits 0
for each (30_encoding.md R98). -/
def Obligations.DontCareBitsDoNotMatter : Prop :=
  (∀ (w x : InstrWord) (i : Instr), decode w = .instr i → decode (w ^^^ (x &&& dontCareMask i)) = .instr i) ∧
  ∀ i : Instr, encode i &&& dontCareMask i = 0

/-- The decision tree and the table of rows are the same decoder (30_encoding.md R105, marked as derived by the spec). -/
def Obligations.DecisionTreeEqualsOpcodeTable : Prop :=
  ∀ w : InstrWord, decode w = decodeByRows w

/-- A word is the row's when `w & mask = match`: it decodes as the row says; and no two of the 35 rows match the same word
(30_encoding.md R100). -/
def Obligations.NoTwoRowsMatchOneWord : Prop :=
  opcodeRows.length = 35 ∧
  (∀ r ∈ opcodeRows, ∀ w : InstrWord, w &&& r.mask = r.value → decode w = .instr (r.build w)) ∧
  ∀ (i j : Nat) (r q : OpcodeRow) (w : InstrWord), opcodeRows[i]? = some r → opcodeRows[j]? = some q →
    w &&& r.mask = r.value → w &&& q.mask = q.value → i = j

/-- The unassigned words are exactly the ranges 30_encoding.md section 5 lists (R103, computed by the spec). -/
def Obligations.UnassignedWordsAreTheListedRanges : Prop :=
  ∀ w : InstrWord, decode w = .illegalEncoding ↔
    (0x0001 ≤ w.toNat ∧ w.toNat ≤ 0x0007) ∨ (0x000A ≤ w.toNat ∧ w.toNat ≤ 0x001F) ∨
    (0x0021 ≤ w.toNat ∧ w.toNat ≤ 0x003F) ∨ (0x0041 ≤ w.toNat ∧ w.toNat ≤ 0x005F) ∨
    (0x0061 ≤ w.toNat ∧ w.toNat ≤ 0x0062) ∨ (0x0065 ≤ w.toNat ∧ w.toNat ≤ 0x007F) ∨
    (0x0100 ≤ w.toNat ∧ w.toNat ≤ 0x0102) ∨ (0x0104 ≤ w.toNat ∧ w.toNat ≤ 0x017F) ∨
    (0x3B00 ≤ w.toNat ∧ w.toNat ≤ 0x3BFF)

/-- Words of the source's examples and of the spec's vectors, one or more of each family, decode to what stands beside them
(95_test_vectors.md sections 1 and 2.11). -/
def Obligations.ExampleWordsDecode : Prop :=
  decode 0x07A0 = .instr (.addwf 0x20 .f) ∧ decode 0x0C12 = .instr (.rrf 0x12 .w) ∧
  decode 0x1392 = .instr (.bcf 0x12 7) ∧ decode 0x3E11 = .instr (.addlw 0x11) ∧ decode 0x3A0F = .instr (.xorlw 0x0F) ∧
  decode 0x1A92 = .instr (.btfsc 0x12 5) ∧ decode 0x0B92 = .instr (.decfsz 0x12 .f) ∧
  decode 0x2123 = .instr (.call 0x123) ∧ decode 0x3412 = .instr (.retlw 0x12) ∧ decode 0x0009 = .instr .retfie ∧
  decode 0x0063 = .instr .sleep ∧ decode 0x2A0F = .instr (.goto 0x20F) ∧ decode 0x0062 = .illegalEncoding

/-! ## The step -/

/-- A step runs the decoded instruction: at a boundary where nothing else happens, with the word PROG holds at pc decoding to
`i`, step is exec of `i` at the state that has taken in the boundary's inputs; with no input left, at the state itself
(20_memory.md section 3, 60_exceptions.md section 2). -/
def Obligations.StepRunsDecodedInstruction : Prop :=
  ∀ (s : State) (w : InstrWord) (i : Instr), ExecutesNow s → s.pc.toNat < s.par.progSize →
    progRead s.prog s.pc.toNat = some w → decode w = .instr i →
    step s = exec i { s with
      inputs := s.inputs.tail
      wdt := s.wdt + (inputsNow s).wdtTicks
      wdtps := s.wdtps + (inputsNow s).wdtpsTicks
      irq := irqNow s
      device := deviceNow s } ∧
    (s.inputs = [] → step s = exec i s)

/-- Where the step that would execute stops before it has an instruction: an address not below `PROG_SIZE` (20_memory.md
section 3: the refusal is the spec's decision D3, followed as a choice in log entry 10), an unassigned word (30_encoding.md section
5: the refusal is the spec's decision D6, log entry 10), and, the model's own choice (log entry 7), an address PROG lists no word
for. -/
def Obligations.FetchAndDecodeStops : Prop :=
  ∀ s : State, ExecutesNow s →
    (s.par.progSize ≤ s.pc.toNat → step s = .refused .fetchOutOfRange) ∧
    (s.pc.toNat < s.par.progSize → progRead s.prog s.pc.toNat = none → step s = .fault .unprogrammedWord) ∧
    (∀ w, s.pc.toNat < s.par.progSize → progRead s.prog s.pc.toNat = some w → decode w = .illegalEncoding →
      step s = .refused .illegalEncoding)

/-- A program word placed at pc is what the next step runs (the model's loading operation, log entry 8). -/
def Obligations.LoadedWordRunsNext : Prop :=
  ∀ (s : State) (nbits n : Nat) (i : Instr), decodeTableWord nbits n = some i →
    step (s.withFetchWord nbits n) = exec i (s.withFetchWord nbits n) ∧
    (s.withFetchWord nbits n).pc = s.pc ∧ (s.withFetchWord nbits n).w = s.w ∧ (s.withFetchWord nbits n).mem = s.mem ∧
    (s.withFetchWord nbits n).stack = s.stack

/-- The invariant is kept by every step, from every state that has it: the memories stay canonical and the stack never holds
more than `STACK_DEPTH` addresses (10_state.md section 4, 20_memory.md sections 2 and 3). -/
def Obligations.EveryStepKeepsInvariant : Prop :=
  ∀ s t : State, Inv s → step s = .next t → Inv t

/-- The invariant holds at reset (70_reset_and_hazards.md section 1). -/
def Obligations.InvariantHoldsAtReset : Prop := Inv State.reset

/-- No step changes program memory or a parameter (20_memory.md section 7). -/
def Obligations.ProgramMemoryNeverChanges : Prop :=
  ∀ s t : State, step s = .next t → t.prog = s.prog ∧ t.par = s.par

/-- Where the next pc comes from, for every instruction that completes: the table of 10_state.md section 2. Where f designates a
general special register, whose functions may assign pc themselves, the 1 or 2 is added to the pc the accesses to f leave (the
model's choice, log entry 6). -/
def Obligations.NextPcTable : Prop :=
  ∀ (i : Instr) (s t : State), exec i s = .next t →
    (∀ k, (i = .goto k ∨ i = .call k) → t.pc = s.pclatch.extractLsb' 3 2 ++ BitVec.ofNat 11 k) ∧
    ((i = .ret ∨ (∃ k, i = .retlw k) ∨ i = .retfie) → s.stack.getLast? = some t.pc ∧ t.stack = s.stack.dropLast) ∧
    (isTransfer i = false → ∃ u, (fileOperand i = none → u = s) ∧ (∀ f, fileOperand i = some f → Accessed f s u) ∧
      (¬ TouchesGeneral i s → u.pc = s.pc) ∧
      (isSkip i = false → t.pc = u.pc + 1) ∧
      (∀ f b a x, i = .btfsc f b → readFile f s = some (a, x) → t.pc = if a.getLsbD b then u.pc + 1 else u.pc + 2) ∧
      (∀ f b a x, i = .btfss f b → readFile f s = some (a, x) → t.pc = if a.getLsbD b then u.pc + 2 else u.pc + 1) ∧
      (∀ f d a x, i = .decfsz f d → readFile f s = some (a, x) → t.pc = if a = 1#8 then u.pc + 2 else u.pc + 1) ∧
      (∀ f d a x, i = .incfsz f d → readFile f s = some (a, x) → t.pc = if a = 255#8 then u.pc + 2 else u.pc + 1))

/-- The flag table of 10_state.md section 3 (R30) as a frame: with no special register under its f operand, an instruction that
completes leaves every flag its row does not list. -/
def Obligations.FlagTableFrame : Prop :=
  ∀ (i : Instr) (s t : State), ¬ TouchesSpecial i s → exec i s = .next t →
    (writesAllArith i = false → writesCOnly i = false → t.c = s.c) ∧
    (writesAllArith i = false → t.dc = s.dc) ∧
    (writesAllArith i = false → writesZOnly i = false → t.z = s.z) ∧
    (writesToPd i = false → t.toFlag = s.toFlag ∧ t.pdFlag = s.pdFlag)

/-- Which instructions reach the rest of the state, whatever register their f designates but a general special register, whose
functions may reach any of it: the stack only CALL and the returns, the watchdog only CLRWDT and SLEEP, power-down only SLEEP. The
schedule, the draws, PROG and the parameters no instruction reaches. With no special register under the f operand, GIE only RETFIE,
and PCLATCH, the interrupt sources and the devices none (10_state.md sections 4 to 6). -/
def Obligations.ControlStateFrame : Prop :=
  ∀ (i : Instr) (s t : State), exec i s = .next t →
    (¬ TouchesGeneral i s →
      (reachesStack i = false → t.stack = s.stack) ∧
      (writesToPd i = false → t.wdt = s.wdt ∧ t.wdtps = s.wdtps) ∧
      (i ≠ .sleep → t.sleeping = s.sleeping)) ∧
    t.inputs = s.inputs ∧ t.draws = s.draws ∧ t.prog = s.prog ∧ t.par = s.par ∧
    (¬ TouchesSpecial i s →
      (i ≠ .retfie → t.gie = s.gie) ∧ t.pclatch = s.pclatch ∧ t.irq = s.irq ∧ t.device = s.device)

/-! ## The register instructions, f plain storage -/

/-- ADDWF on plain storage: the sum, C, DC and Z of the unsigned addition, everything else as before
(40_byte_oriented.md section 2). -/
def Obligations.AddwfResult : Prop :=
  ∀ (s : State) (f : Nat) (d : Dest), s.mem.wf = true → fileKind f s.par = .plain →
    let a := (memRead s.mem f).toNat
    ∃ t, exec (.addwf f d) s = .next t ∧ t.pc = s.pc + 1 ∧
      DestGets d f (BitVec.ofNat 8 (a + s.w.toNat)) s t ∧
      t.c = decide (256 ≤ a + s.w.toNat) ∧ t.dc = decide (16 ≤ a % 16 + s.w.toNat % 16) ∧
      t.z = decide ((a + s.w.toNat) % 256 = 0) ∧ KeepsControl s t

/-- SUBWF on plain storage: (f) - (W), C and DC 1 when no borrow occurs, everything else as before
(40_byte_oriented.md section 2). -/
def Obligations.SubwfResult : Prop :=
  ∀ (s : State) (f : Nat) (d : Dest), s.mem.wf = true → fileKind f s.par = .plain →
    let a := (memRead s.mem f).toNat
    ∃ t, exec (.subwf f d) s = .next t ∧ t.pc = s.pc + 1 ∧
      DestGets d f (BitVec.ofNat 8 (a + 256 - s.w.toNat)) s t ∧
      t.c = decide (s.w.toNat ≤ a) ∧ t.dc = decide (s.w.toNat % 16 ≤ a % 16) ∧
      t.z = decide (a = s.w.toNat) ∧ KeepsControl s t

/-- ANDWF, IORWF and XORWF on plain storage, bit by bit: Z from the result, C and DC kept, everything else as before
(40_byte_oriented.md section 2). -/
def Obligations.LogicWithFileResult : Prop :=
  ∀ (s : State) (f : Nat) (d : Dest), s.mem.wf = true → fileKind f s.par = .plain →
    (∃ t r, exec (.andwf f d) s = .next t ∧
      (∀ j < 8, r.getLsbD j = (s.w.getLsbD j && (memRead s.mem f).getLsbD j)) ∧
      DestGets d f r s t ∧ t.z = decide (r = 0#8) ∧ t.c = s.c ∧ t.dc = s.dc ∧ t.pc = s.pc + 1 ∧ KeepsControl s t) ∧
    (∃ t r, exec (.iorwf f d) s = .next t ∧
      (∀ j < 8, r.getLsbD j = (s.w.getLsbD j || (memRead s.mem f).getLsbD j)) ∧
      DestGets d f r s t ∧ t.z = decide (r = 0#8) ∧ t.c = s.c ∧ t.dc = s.dc ∧ t.pc = s.pc + 1 ∧ KeepsControl s t) ∧
    (∃ t r, exec (.xorwf f d) s = .next t ∧
      (∀ j < 8, r.getLsbD j = (s.w.getLsbD j ^^ (memRead s.mem f).getLsbD j)) ∧
      DestGets d f r s t ∧ t.z = decide (r = 0#8) ∧ t.c = s.c ∧ t.dc = s.dc ∧ t.pc = s.pc + 1 ∧ KeepsControl s t)

/-- COMF and MOVF on plain storage: every bit inverted, every bit kept; Z from the result, C and DC kept, everything else as
before (40_byte_oriented.md section 2). -/
def Obligations.ComplementAndMoveResult : Prop :=
  ∀ (s : State) (f : Nat) (d : Dest), s.mem.wf = true → fileKind f s.par = .plain →
    (∃ t r, exec (.comf f d) s = .next t ∧ (∀ j < 8, r.getLsbD j = !(memRead s.mem f).getLsbD j) ∧
      DestGets d f r s t ∧ t.z = decide (memRead s.mem f = 255#8) ∧ t.c = s.c ∧ t.dc = s.dc ∧ t.pc = s.pc + 1 ∧
      KeepsControl s t) ∧
    (∃ t, exec (.movf f d) s = .next t ∧ DestGets d f (memRead s.mem f) s t ∧
      t.z = decide (memRead s.mem f = 0#8) ∧ t.c = s.c ∧ t.dc = s.dc ∧ t.pc = s.pc + 1 ∧ KeepsControl s t)

/-- INCF and DECF on plain storage: one more and one less modulo 256, Z from the result, no carry or borrow recorded,
everything else as before (40_byte_oriented.md section 2). -/
def Obligations.IncrementDecrementResult : Prop :=
  ∀ (s : State) (f : Nat) (d : Dest), s.mem.wf = true → fileKind f s.par = .plain →
    let a := (memRead s.mem f).toNat
    (∃ t, exec (.incf f d) s = .next t ∧ DestGets d f (BitVec.ofNat 8 (a + 1)) s t ∧ t.z = decide (a = 255) ∧
      t.c = s.c ∧ t.dc = s.dc ∧ t.pc = s.pc + 1 ∧ KeepsControl s t) ∧
    (∃ t, exec (.decf f d) s = .next t ∧ DestGets d f (BitVec.ofNat 8 (a + 255)) s t ∧ t.z = decide (a = 1) ∧
      t.c = s.c ∧ t.dc = s.dc ∧ t.pc = s.pc + 1 ∧ KeepsControl s t)

/-- RLF and RRF on plain storage: the 9-bit rotation through C, Z and DC kept, everything else as before
(40_byte_oriented.md section 2). -/
def Obligations.RotateResult : Prop :=
  ∀ (s : State) (f : Nat) (d : Dest), s.mem.wf = true → fileKind f s.par = .plain →
    let a := (memRead s.mem f).toNat
    (∃ t, exec (.rlf f d) s = .next t ∧ DestGets d f (BitVec.ofNat 8 (2 * a + s.c.toNat)) s t ∧
      t.c = decide (128 ≤ a) ∧ t.dc = s.dc ∧ t.z = s.z ∧ t.pc = s.pc + 1 ∧ KeepsControl s t) ∧
    (∃ t, exec (.rrf f d) s = .next t ∧ DestGets d f (BitVec.ofNat 8 (a / 2 + 128 * s.c.toNat)) s t ∧
      t.c = decide (a % 2 = 1) ∧ t.dc = s.dc ∧ t.z = s.z ∧ t.pc = s.pc + 1 ∧ KeepsControl s t)

/-- SWAPF, CLRF and MOVWF on plain storage, and CLRW in every state: what each writes, the flags each keeps, everything else as
before (40_byte_oriented.md section 2). -/
def Obligations.SwapClearStoreResult : Prop :=
  (∀ s : State, exec .clrw s = .next { s with w := 0#8, z := true, pc := s.pc + 1 }) ∧
  ∀ (s : State) (f : Nat), s.mem.wf = true → fileKind f s.par = .plain →
    (∀ d, ∃ t, exec (.swapf f d) s = .next t ∧
      DestGets d f (BitVec.ofNat 8 ((memRead s.mem f).toNat % 16 * 16 + (memRead s.mem f).toNat / 16)) s t ∧
      KeepsFlags s t ∧ t.pc = s.pc + 1 ∧ KeepsControl s t) ∧
    (∃ t, exec (.clrf f) s = .next t ∧ t.w = s.w ∧ Stores f 0#8 s t ∧ t.z = true ∧ t.c = s.c ∧ t.dc = s.dc ∧
      t.pc = s.pc + 1 ∧ KeepsControl s t) ∧
    (∃ t, exec (.movwf f) s = .next t ∧ t.w = s.w ∧ Stores f s.w s t ∧ KeepsFlags s t ∧ t.pc = s.pc + 1 ∧
      KeepsControl s t)

/-- BCF and BSF on plain storage: bit b becomes 0 or 1, the other seven bits, W and every flag are as before
(41_bit_oriented.md). -/
def Obligations.BitClearAndSetResult : Prop :=
  ∀ (s : State) (f b : Nat), s.mem.wf = true → fileKind f s.par = .plain → b < 8 →
    (∃ t r, exec (.bcf f b) s = .next t ∧
      (∀ j < 8, r.getLsbD j = if j = b then false else (memRead s.mem f).getLsbD j) ∧
      Stores f r s t ∧ t.w = s.w ∧ KeepsFlags s t ∧ t.pc = s.pc + 1 ∧ KeepsControl s t) ∧
    (∃ t r, exec (.bsf f b) s = .next t ∧
      (∀ j < 8, r.getLsbD j = if j = b then true else (memRead s.mem f).getLsbD j) ∧
      Stores f r s t ∧ t.w = s.w ∧ KeepsFlags s t ∧ t.pc = s.pc + 1 ∧ KeepsControl s t)

/-- BTFSC and BTFSS on plain storage: pc alone changes, by 2 when bit b has the value asked for (43_skip.md). -/
def Obligations.BitTestSkipResult : Prop :=
  ∀ (s : State) (f b : Nat), fileKind f s.par = .plain → b < 8 →
    exec (.btfsc f b) s
      = .next { s with pc := if (memRead s.mem f).getLsbD b = false then s.pc + 2 else s.pc + 1 } ∧
    exec (.btfss f b) s
      = .next { s with pc := if (memRead s.mem f).getLsbD b = true then s.pc + 2 else s.pc + 1 }

/-- DECFSZ and INCFSZ on plain storage: the destination, the skip decided by the result, no flag, everything else as before
(43_skip.md). -/
def Obligations.CountAndSkipResult : Prop :=
  ∀ (s : State) (f : Nat) (d : Dest), s.mem.wf = true → fileKind f s.par = .plain →
    let a := (memRead s.mem f).toNat
    (∃ t, exec (.decfsz f d) s = .next t ∧ DestGets d f (BitVec.ofNat 8 (a + 255)) s t ∧
      t.pc = (if a = 1 then s.pc + 2 else s.pc + 1) ∧ KeepsFlags s t ∧ KeepsControl s t) ∧
    (∃ t, exec (.incfsz f d) s = .next t ∧ DestGets d f (BitVec.ofNat 8 (a + 1)) s t ∧
      t.pc = (if a = 255 then s.pc + 2 else s.pc + 1) ∧ KeepsFlags s t ∧ KeepsControl s t)

/-! ## The register instructions, f a special register or nothing -/

/-- ADDWF, SUBWF, RLF and RRF on a special register: they complete with the byte the read gives, the data write happens first
and the flags after it, so that they hold the flags of the operation even where f is STATUS; W and C are those before the
instruction; pc goes on from what the accesses leave, which is the instruction's address but for a general register
(20_memory.md section 2, the results and flags of 40_byte_oriented.md sections 1 and 2, with the special registers of log entries 6
and 14; C and DC of SUBWF rest on the spec's decision D17, log entry 20). -/
def Obligations.ArithmeticOnSpecialRegister : Prop :=
  ∀ (s : State) (f : Nat) (d : Dest) (r : Sfr), fileKind f s.par = .special r →
    ∃ a s1, readFile f s = some (a, s1) ∧ (sfrIsGeneral r = false → AccessKeepsPc f d s s1 ∧ s1 = { s with device := s1.device }) ∧
      (∃ u, writeDest d f (BitVec.ofNat 8 (a.toNat + s.w.toNat)) s1 = some u ∧
        exec (.addwf f d) s = .next { u with
          c := decide (256 ≤ a.toNat + s.w.toNat)
          dc := decide (16 ≤ a.toNat % 16 + s.w.toNat % 16)
          z := decide ((a.toNat + s.w.toNat) % 256 = 0)
          pc := u.pc + 1 }) ∧
      (∃ u, writeDest d f (BitVec.ofNat 8 (a.toNat + 256 - s.w.toNat)) s1 = some u ∧
        exec (.subwf f d) s = .next { u with
          c := decide (s.w.toNat ≤ a.toNat)
          dc := decide (s.w.toNat % 16 ≤ a.toNat % 16)
          z := decide (a.toNat = s.w.toNat)
          pc := u.pc + 1 }) ∧
      (∃ u, writeDest d f (BitVec.ofNat 8 (2 * a.toNat + s.c.toNat)) s1 = some u ∧
        exec (.rlf f d) s = .next { u with c := decide (128 ≤ a.toNat), pc := u.pc + 1 }) ∧
      (∃ u, writeDest d f (BitVec.ofNat 8 (a.toNat / 2 + 128 * s.c.toNat)) s1 = some u ∧
        exec (.rrf f d) s = .next { u with c := decide (a.toNat % 2 = 1), pc := u.pc + 1 })

/-- ANDWF, IORWF, XORWF, COMF, MOVF, INCF, DECF and CLRF on a special register: they complete, the data write first and Z after
it; pc goes on from what the accesses leave, which is the instruction's address but for a general register (20_memory.md section 2,
the results and Z of 40_byte_oriented.md section 2, with the special registers of log entries 6 and 14). -/
def Obligations.LogicOnSpecialRegister : Prop :=
  ∀ (s : State) (f : Nat) (d : Dest) (r : Sfr), fileKind f s.par = .special r →
    (∃ a s1, readFile f s = some (a, s1) ∧ (sfrIsGeneral r = false → AccessKeepsPc f d s s1) ∧
      (∃ u, writeDest d f (s.w &&& a) s1 = some u ∧
        exec (.andwf f d) s = .next { u with z := decide (s.w &&& a = 0#8), pc := u.pc + 1 }) ∧
      (∃ u, writeDest d f (s.w ||| a) s1 = some u ∧
        exec (.iorwf f d) s = .next { u with z := decide (s.w = 0#8 ∧ a = 0#8), pc := u.pc + 1 }) ∧
      (∃ u, writeDest d f (s.w ^^^ a) s1 = some u ∧
        exec (.xorwf f d) s = .next { u with z := decide (s.w = a), pc := u.pc + 1 }) ∧
      (∃ u, writeDest d f (~~~ a) s1 = some u ∧
        exec (.comf f d) s = .next { u with z := decide (a = 255#8), pc := u.pc + 1 }) ∧
      (∃ u, writeDest d f a s1 = some u ∧
        exec (.movf f d) s = .next { u with z := decide (a = 0#8), pc := u.pc + 1 }) ∧
      (∃ u, writeDest d f (a + 1#8) s1 = some u ∧
        exec (.incf f d) s = .next { u with z := decide (a = 255#8), pc := u.pc + 1 }) ∧
      (∃ u, writeDest d f (a - 1#8) s1 = some u ∧
        exec (.decf f d) s = .next { u with z := decide (a = 1#8), pc := u.pc + 1 })) ∧
    (∃ u, writeFile f 0#8 s = some u ∧ exec (.clrf f) s = .next { u with z := true, pc := u.pc + 1 })

/-- SWAPF, MOVWF, BCF, BSF and the four skips on a special register: they complete and write no flag but through the register
itself; pc goes on from what the accesses leave, which is the instruction's address but for a general register (20_memory.md
section 2, 40_byte_oriented.md section 2 for SWAPF and MOVWF, 41_bit_oriented.md, 43_skip.md, with the special registers of log entry
6). -/
def Obligations.MovesAndSkipsOnSpecialRegister : Prop :=
  ∀ (s : State) (f : Nat) (d : Dest) (b : Nat) (r : Sfr), fileKind f s.par = .special r → b < 8 →
    (∃ a s1, readFile f s = some (a, s1) ∧ (sfrIsGeneral r = false → AccessKeepsPc f d s s1) ∧
      (∃ u, writeDest d f (BitVec.ofNat 8 (a.toNat % 16 * 16 + a.toNat / 16)) s1 = some u ∧
        exec (.swapf f d) s = .next { u with pc := u.pc + 1 }) ∧
      (∃ u, writeFile f (a &&& ~~~ (1#8 <<< b)) s1 = some u ∧ exec (.bcf f b) s = .next { u with pc := u.pc + 1 }) ∧
      (∃ u, writeFile f (a ||| (1#8 <<< b)) s1 = some u ∧ exec (.bsf f b) s = .next { u with pc := u.pc + 1 }) ∧
      exec (.btfsc f b) s = .next { s1 with pc := if a.getLsbD b then s1.pc + 1 else s1.pc + 2 } ∧
      exec (.btfss f b) s = .next { s1 with pc := if a.getLsbD b then s1.pc + 2 else s1.pc + 1 } ∧
      (∃ u, writeDest d f (a - 1#8) s1 = some u ∧
        exec (.decfsz f d) s = .next { u with pc := if a = 1#8 then u.pc + 2 else u.pc + 1 }) ∧
      (∃ u, writeDest d f (a + 1#8) s1 = some u ∧
        exec (.incfsz f d) s = .next { u with pc := if a = 255#8 then u.pc + 2 else u.pc + 1 })) ∧
    (∃ u, writeFile f s.w s = some u ∧ exec (.movwf f) s = .next { u with pc := u.pc + 1 })

/-- Every instruction with an f operand is refused, by name, where f designates nothing (20_memory.md section 2: a decision of
the spec, 92_eei_decisions.md D2). -/
def Obligations.UnmappedFileIsRefused : Prop :=
  ∀ (i : Instr) (s : State) (f : Nat), fileOperand i = some f → fileKind f s.par = .unmapped →
    exec i s = .refused .fileNotMapped

/-- Plain storage: a read returns the last value written, a write changes that cell and nothing else, a read changes nothing
(20_memory.md section 2). -/
def Obligations.PlainStorageReadsLastWrite : Prop :=
  ∀ (s : State) (f : Nat) (v : Byte), s.mem.wf = true → fileKind f s.par = .plain →
    ∃ t, writeFile f v s = some t ∧ readFile f t = some (v, t) ∧ Stores f v s t ∧ t = { s with mem := t.mem }

/-- The memory is determined by what it reads as: two memories in canonical form that read alike are equal (the model's form,
log entry 1). -/
def Obligations.EqualReadsMakeEqualMemories : Prop :=
  ∀ m n : Memory, m.wf = true → n.wf = true → (∀ a, memRead m a = memRead n a) → m = n

/-- A special register built of bits reads as those bits, each the piece of state its entry names (20_memory.md section 2, with
the layouts of log entry 6). -/
def Obligations.SpecialRegisterReadsItsBits : Prop :=
  ∀ (s : State) (f : Nat) (bits : List SfrBit), fileKind f s.par = .special (.layout bits) → layoutLegal 0 bits = true →
    ∃ a, readFile f s = some (a, s) ∧
      ∀ j < 8, a.getLsbD j = match bits[j]? with
        | some b => bitRead f j b.source s
        | none => false

/-- A data write to a special register built of bits changes its writable bits alone. A writable bit takes the bit of the byte; where
two of the layout name one piece of state the higher one's bit stays. A piece of state that no writable bit names is as before: each
flag, GIE, PCLATCH, the enable and the request of each source, each stored bit of f. So are the sources' waking conditions, every
other f register, W, pc, the stack, the watchdog, the sleep and the devices (20_memory.md section 2, with the layouts of log entries
6 and 14). -/
def Obligations.SpecialRegisterWriteChangesWritableBits : Prop :=
  ∀ (s : State) (f : Nat) (v : Byte) (bits : List SfrBit), s.mem.wf = true →
    fileKind f s.par = .special (.layout bits) → layoutLegal 0 bits = true →
    ∃ t, writeFile f v s = some t ∧
      (∀ j b, bits[j]? = some b → changedByWrite b = true →
        (∀ k c, j < k → bits[k]? = some c → c.writable = true → c.source = b.source → b.source = .stored) →
        bitRead f j b.source t = v.getLsbD j) ∧
      (∀ j x, (∀ k c, bits[k]? = some c → c.writable = true → c.source = x → x = .stored ∧ k ≠ j) →
        bitRead f j x t = bitRead f j x s) ∧
      (∀ q, (irqGet q t.irq).wake = (irqGet q s.irq).wake) ∧
      (∀ a, a ≠ f → memRead t.mem a = memRead s.mem a) ∧
      t.w = s.w ∧ t.pc = s.pc ∧ t.stack = s.stack ∧ t.wdt = s.wdt ∧ t.wdtps = s.wdtps ∧ t.sleeping = s.sleeping ∧
      t.device = s.device ∧ t.inputs = s.inputs ∧ t.draws = s.draws ∧ t.prog = s.prog ∧ t.par = s.par

/-- Every access to a device register or a general one completes. A device register's moves the devices' state alone. A general one
gives what its function of the state gives, the f registers and the stack in the machine's form, and leaves PROG, the parameters,
the schedule and the draws (20_memory.md section 2, with the registers of log entry 6). -/
def Obligations.DeviceAndGeneralRegisterAccess : Prop :=
  ∀ (s : State) (f : Nat) (v : Byte),
    (fileKind f s.par = .special .device →
      ∃ a d e, readFile f s = some (a, { s with device := d }) ∧ writeFile f v s = some { s with device := e }) ∧
    ∀ id, fileKind f s.par = .special (.general id) →
      ∃ a t u, readFile f s = some (a, t) ∧ writeFile f v s = some u ∧ a = (Config.specialRead id s).1 ∧
        ∀ x y, (x = t ∧ y = (Config.specialRead id s).2) ∨ (x = u ∧ y = Config.specialWrite id v s) →
          x = { y with stack := x.stack, mem := x.mem, inputs := s.inputs, draws := s.draws, prog := s.prog, par := s.par } ∧
          (∀ g < 128, memRead x.mem g = memRead y.mem g) ∧ x.mem.wf = true ∧
          (y.stack.length ≤ s.par.stackDepth → x.stack = y.stack) ∧ x.stack.length ≤ s.par.stackDepth

/-! ## Flags and rotations -/

/-- AddFlags: the carry out of bit 7, the carry out of bit 3 into bit 4, and zero (40_byte_oriented.md R121). -/
def Obligations.AddFlagsAreTheCarries : Prop :=
  ∀ (a b : Byte) (s : State),
    (a + b).toNat = (a.toNat + b.toNat) % 256 ∧
    (s.addFlags a b).c = decide (256 ≤ a.toNat + b.toNat) ∧
    (s.addFlags a b).dc = decide (16 ≤ a.toNat % 16 + b.toNat % 16) ∧
    (s.addFlags a b).z = decide ((a.toNat + b.toNat) % 256 = 0) ∧
    s.addFlags a b = { s with c := (s.addFlags a b).c, dc := (s.addFlags a b).dc, z := (s.addFlags a b).z }

/-- SubFlags: C is 1 when no borrow occurs, and the reading as an addition of the complement gives the same C and DC for every
pair of bytes, a subtrahend of 00H among them (40_byte_oriented.md section 1: the equality is derived, D17). -/
def Obligations.SubFlagsAgreeWithComplementAddition : Prop :=
  ∀ (m x : Byte) (s : State),
    (s.subFlags m x).c = decide (x.toNat ≤ m.toNat) ∧
    (s.subFlags m x).dc = decide (x.toNat % 16 ≤ m.toNat % 16) ∧
    (s.subFlags m x).z = decide (m = x) ∧
    (s.subFlags m x).c = (m.setWidth 9 + (~~~ x).setWidth 9 + 1#9).getLsbD 8 ∧
    (s.subFlags m x).dc
      = ((m.extractLsb' 0 4).setWidth 5 + (~~~ (x.extractLsb' 0 4)).setWidth 5 + 1#5).getLsbD 4 ∧
    (x = 0#8 → (s.subFlags m x).c = true ∧ (s.subFlags m x).dc = true)

/-- The ring has 9 bits: nine RLF f,1 in a row, or nine RRF f,1, restore the whole state but pc; so does RLF f,1 followed by
RRF f,1, and two SWAPF f,1 (40_byte_oriented.md section 2, corner cases). -/
def Obligations.RotationsComeBackAround : Prop :=
  ∀ (s : State) (f : Nat), s.mem.wf = true → fileKind f s.par = .plain →
    repeatExec (.rlf f .f) 9 s = .next { s with pc := s.pc + 9 } ∧
    repeatExec (.rrf f .f) 9 s = .next { s with pc := s.pc + 9 } ∧
    repeatExec (.swapf f .f) 2 s = .next { s with pc := s.pc + 2 } ∧
    (∃ t, exec (.rlf f .f) s = .next t ∧ exec (.rrf f .f) t = .next { s with pc := s.pc + 2 })

/-! ## The literal instructions -/

/-- ADDLW: the sum of W and the unsigned literal, its flags, everything else as before; one cycle, two words
(42_literal.md R160). -/
def Obligations.AddlwResult : Prop :=
  ∀ (s : State) (k : Nat), k ≤ 255 →
    exec (.addlw k) s = .next { s with
      w := BitVec.ofNat 8 (s.w.toNat + k)
      c := decide (256 ≤ s.w.toNat + k)
      dc := decide (16 ≤ s.w.toNat % 16 + k % 16)
      z := decide ((s.w.toNat + k) % 256 = 0)
      pc := s.pc + 1 } ∧
    cycles (.addlw k) s = 1 ∧
    ∀ w : InstrWord, decode w = .instr (.addlw k) ↔ w.toNat = 0x3E00 + k ∨ w.toNat = 0x3F00 + k

/-- SUBLW: k - (W), C and DC 1 when no borrow occurs, everything else as before (42_literal.md). -/
def Obligations.SublwResult : Prop :=
  ∀ (s : State) (k : Nat), k ≤ 255 →
    exec (.sublw k) s = .next { s with
      w := BitVec.ofNat 8 (k + 256 - s.w.toNat)
      c := decide (s.w.toNat ≤ k)
      dc := decide (s.w.toNat % 16 ≤ k % 16)
      z := decide (k = s.w.toNat)
      pc := s.pc + 1 }

/-- ANDLW, IORLW and XORLW, bit by bit: Z from the result, everything else as before; one cycle, one word each
(42_literal.md R161, R162, R165). -/
def Obligations.LogicWithLiteralResult : Prop :=
  ∀ (s : State) (k : Nat), k ≤ 255 →
    (∃ r, exec (.andlw k) s = .next { s with w := r, z := decide (r = 0#8), pc := s.pc + 1 } ∧
      ∀ j < 8, r.getLsbD j = (s.w.getLsbD j && k.testBit j)) ∧
    (∃ r, exec (.iorlw k) s = .next { s with w := r, z := decide (r = 0#8), pc := s.pc + 1 } ∧
      ∀ j < 8, r.getLsbD j = (s.w.getLsbD j || k.testBit j)) ∧
    (∃ r, exec (.xorlw k) s = .next { s with w := r, z := decide (r = 0#8), pc := s.pc + 1 } ∧
      ∀ j < 8, r.getLsbD j = (s.w.getLsbD j ^^ k.testBit j)) ∧
    cycles (.andlw k) s = 1 ∧ cycles (.iorlw k) s = 1 ∧ cycles (.xorlw k) s = 1 ∧
    ∀ w : InstrWord, (decode w = .instr (.andlw k) ↔ w.toNat = 0x3900 + k) ∧
      (decode w = .instr (.iorlw k) ↔ w.toNat = 0x3800 + k) ∧ (decode w = .instr (.xorlw k) ↔ w.toNat = 0x3A00 + k)

/-- MOVLW: W gets the literal, no flag is written, even for k = 00H, and nothing else changes; one cycle, four words
(42_literal.md R163). -/
def Obligations.MovlwResult : Prop :=
  ∀ (s : State) (k : Nat), k ≤ 255 →
    exec (.movlw k) s = .next { s with w := BitVec.ofNat 8 k, pc := s.pc + 1 } ∧
    cycles (.movlw k) s = 1 ∧
    ∀ w : InstrWord, decode w = .instr (.movlw k) ↔
      w.toNat = 0x3000 + k ∨ w.toNat = 0x3100 + k ∨ w.toNat = 0x3200 + k ∨ w.toNat = 0x3300 + k

/-! ## Control transfer and the stack -/

/-- GOTO: pc bits 12:11 come from PCLATCH bits 4:3, bits 10:0 from k; nothing else changes, no refusal, two cycles, and the word
is `10 1` and k (44_control_transfer.md R201). -/
def Obligations.GotoResult : Prop :=
  ∀ (s : State) (k : Nat), k ≤ 2047 →
    exec (.goto k) s = .next { s with pc := BitVec.ofNat 13 (s.pclatch.toNat / 8 % 4 * 2048 + k) } ∧
    cycles (.goto k) s = 2 ∧
    ∀ w : InstrWord, decode w = .instr (.goto k) ↔ w.toNat = 5 * 2048 + k

/-- CALL with room on the stack: the return address is pushed, the target is that of GOTO, PCLATCH and everything else is as
before; with a full stack it is refused (44_control_transfer.md, 10_state.md section 4: the refusal is the spec's decision D5). -/
def Obligations.CallResult : Prop :=
  ∀ (s : State) (k : Nat), k ≤ 2047 →
    (s.stack.length < s.par.stackDepth →
      exec (.call k) s = .next { s with
        stack := s.stack ++ [s.pc + 1]
        pc := BitVec.ofNat 13 (s.pclatch.toNat / 8 % 4 * 2048 + k) }) ∧
    (s.par.stackDepth ≤ s.stack.length → exec (.call k) s = .refused .stackOverflow)

/-- The returns with an address on the stack: it becomes pc and leaves the stack; RETLW also loads W, RETFIE also sets GIE, and
nothing else changes. With an empty stack all three are refused (44_control_transfer.md, 10_state.md section 4: the refusal is
the spec's decision D5). -/
def Obligations.ReturnsResult : Prop :=
  ∀ (s : State) (k : Nat), k ≤ 255 →
    (∀ l a, s.stack = l ++ [a] →
      exec .ret s = .next { s with stack := l, pc := a } ∧
      exec (.retlw k) s = .next { s with stack := l, pc := a, w := BitVec.ofNat 8 k } ∧
      exec .retfie s = .next { s with stack := l, pc := a, gie := true }) ∧
    (s.stack = [] →
      exec .ret s = .refused .stackUnderflow ∧ exec (.retlw k) s = .refused .stackUnderflow ∧
      exec .retfie s = .refused .stackUnderflow)

/-- A return goes back to the instruction after the most recent CALL: from any state whose stack is the one the CALL left, RETURN
gives the CALL's address plus one and the stack from before the CALL, whatever PCLATCH holds by then
(44_control_transfer.md). -/
def Obligations.ReturnGoesBackAfterTheCall : Prop :=
  ∀ (s : State) (k : Nat), k ≤ 2047 → s.stack.length < s.par.stackDepth →
    ∃ t, exec (.call k) s = .next t ∧
      ∀ u : State, u.stack = t.stack → exec .ret u = .next { u with stack := s.stack, pc := s.pc + 1 }

/-! ## The system instructions -/

/-- CLRWDT: WDT and its prescaler to 0, TO and PD to 1 whether or not the WDT is enabled, nothing else; one cycle, one word; the
only instruction that sets PD to 1, but for a data write to a special register (45_system.md R220). -/
def Obligations.ClrwdtResult : Prop :=
  ∀ s : State,
    exec .clrwdt s = .next { s with wdt := 0, wdtps := 0, toFlag := true, pdFlag := true, pc := s.pc + 1 } ∧
    cycles .clrwdt s = 1 ∧ (∀ w : InstrWord, decode w = .instr .clrwdt ↔ w = 0x0064#14) ∧
    ∀ (i : Instr) (t : State), ¬ TouchesSpecial i s → s.pdFlag = false → exec i s = .next t → t.pdFlag = true → i = .clrwdt

/-- NOP: pc alone changes; one cycle; the four words 0000, 0020, 0040, 0060 and no other are NOP (45_system.md R221). -/
def Obligations.NopResult : Prop :=
  ∀ s : State,
    exec .nop s = .next { s with pc := s.pc + 1 } ∧ cycles .nop s = 1 ∧ encode .nop = 0x0000#14 ∧
    ∀ w : InstrWord, decode w = .instr .nop ↔ w = 0x0000#14 ∨ w = 0x0020#14 ∨ w = 0x0040#14 ∨ w = 0x0060#14

/-- SLEEP: WDT and its prescaler to 0, TO to 1, PD to 0, power-down entered, pc at the instruction after it, nothing else
(45_system.md; where it resumes is the spec's decision D11). -/
def Obligations.SleepResult : Prop :=
  ∀ s : State,
    exec .sleep s = .next { s with
      wdt := 0
      wdtps := 0
      toFlag := true
      pdFlag := false
      sleeping := true
      pc := s.pc + 1 }

/-- The cycles of every instruction that completes: one, two for the transfers, and for the conditional skips two exactly when
the next instruction is skipped (70_reset_and_hazards.md section 4). The pc that 2 or 1 is added to is the instruction's address, but
where a general special register has assigned pc (the model's choice, log entry 6). -/
def Obligations.CyclesTable : Prop :=
  ∀ (i : Instr) (s t : State), exec i s = .next t →
    (isTransfer i = true → cycles i s = 2) ∧
    (isTransfer i = false → isSkip i = false → cycles i s = 1) ∧
    (isSkip i = true → ∃ f u, fileOperand i = some f ∧ Accessed f s u ∧ (¬ TouchesGeneral i s → u.pc = s.pc) ∧
      ((t.pc = u.pc + 2 ∧ cycles i s = 2) ∨ (t.pc = u.pc + 1 ∧ cycles i s = 1)))

/-! ## Interrupts, watchdog, sleep, reset -/

/-- Interrupt entry: at a boundary where the core accepts it, awake and with neither reset nor time-out, the address of the
instruction not yet executed is pushed, GIE is cleared and pc goes to `INT_VECTOR`; nothing else is saved or changed but what
the boundary's inputs bring. With a full stack it is refused (60_exceptions.md section 2: entry is the spec's decision D10). -/
def Obligations.InterruptEntryResult : Prop :=
  ∀ s : State, NoResetNow s → s.sleeping = false → AcceptsNow s →
    (s.stack.length < s.par.stackDepth →
      step s = .next { s with
        stack := s.stack ++ [s.pc]
        gie := false
        pc := s.par.intVector
        inputs := s.inputs.tail
        wdt := s.wdt + (inputsNow s).wdtTicks
        wdtps := s.wdtps + (inputsNow s).wdtpsTicks
        irq := irqNow s
        device := deviceNow s }) ∧
    (s.par.stackDepth ≤ s.stack.length → step s = .refused .stackOverflow)

/-- RETFIE at the end of a handler that has left the stack as it found it returns to the interrupted instruction with GIE = 1 and
restores nothing else (60_exceptions.md section 2: entry is the spec's decision D10). -/
def Obligations.RetfieReturnsToInterruptedInstruction : Prop :=
  ∀ s t : State, NoResetNow s → s.sleeping = false → AcceptsNow s → step s = .next t →
    t.gie = false ∧
    ∀ u : State, u.stack = t.stack → exec .retfie u = .next { u with stack := s.stack, pc := s.pc, gie := true }

/-- With the empty `SFR_MAP` the only thing that makes GIE 1 is RETFIE (60_exceptions.md section 2, R254: derived by the
spec). -/
def Obligations.OnlyRetfieSetsGie : Prop :=
  ∀ s t : State, s.par.sfrMap = [] → s.gie = false → step s = .next t → t.gie = true →
    ∃ w, ExecutesNow s ∧ progRead s.prog s.pc.toNat = some w ∧ decode w = .instr .retfie

/-- GIE = 0: no interrupt is accepted. An awake core at such a boundary resets or performs the instruction at pc, and nothing
else (60_exceptions.md section 2). -/
def Obligations.NoInterruptWithGieClear : Prop :=
  ∀ s : State, s.gie = false → s.sleeping = false →
    step s = .next (resetEvent s.par.resetTo s.par.resetPd s.latchInputs) ∨
    step s = .next (resetEvent false s.par.resetPd s.latchInputs) ∨
    step s = executeNext s.latchInputs

/-- A /MCLR reset overrides everything else at its boundary (60_exceptions.md section 2: the spec's decision D10, log entry 13), and gives
pc, GIE, the sleep, the stack, the watchdog, PCLATCH, TO and PD the values of the spec's decision D9 (70_reset_and_hazards.md section
1), whether the core ran or slept. TO and PD are their parameters, whatever SLEEP left in them: one pair for all resets, against the
general-knowledge passage of 60_exceptions.md section 4 that they stay as SLEEP set them, is the model's choice (log entry 16). That IRQ
takes `resetIrq` at every reset is the model's choice too (log entry 16). W, the f registers, C, DC and Z are free values of which
nothing is said but that the f registers are in the model's form (log entries 1 and 2); the draw counter and the schedule, used up by
one entry, are the model's (log entries 2 and 9). -/
def Obligations.MclrResetOverridesAll : Prop :=
  ∀ s : State, (inputsNow s).mclr = true →
    ∃ t, step s = .next t ∧ t.pc = s.par.resetVector ∧ t.gie = false ∧ t.sleeping = false ∧ t.stack = [] ∧ t.wdt = 0 ∧
      t.wdtps = 0 ∧ t.pclatch = s.par.resetPclatch ∧ t.mem.wf = true ∧ t.irq = s.par.resetIrq ∧
      t.inputs = s.inputs.tail ∧ t.draws = s.draws + 1 ∧ t.prog = s.prog ∧ t.par = s.par ∧
      t.toFlag = s.par.resetTo ∧ t.pdFlag = s.par.resetPd

/-- A WDT time-out: while running it is a reset with TO = 0; while sleeping it ends the sleep with TO = 0 and execution resumes
at pc, nothing else changed but what the inputs bring; with the WDT disabled it has no effect on the choice of the event
(60_exceptions.md section 3: decisions D11 and D12 of the spec, log entry 12; that it comes before a wake-up or an interrupt of the same
boundary is decision D10, log entry 13). -/
def Obligations.WatchdogTimeoutResult : Prop :=
  ∀ s : State, (inputsNow s).mclr = false → (inputsNow s).wdtTimeout = true →
    (s.par.wdtEnabled = true → s.sleeping = false →
      ∃ t, step s = .next t ∧ t.pc = s.par.resetVector ∧ t.gie = false ∧ t.sleeping = false ∧ t.stack = [] ∧
        t.wdt = 0 ∧ t.wdtps = 0 ∧ t.pclatch = s.par.resetPclatch ∧ t.toFlag = false ∧ t.pdFlag = s.par.resetPd) ∧
    (s.par.wdtEnabled = true → s.sleeping = true →
      step s = .next { s with
        sleeping := false
        toFlag := false
        inputs := s.inputs.tail
        wdt := s.wdt + (inputsNow s).wdtTicks
        wdtps := s.wdtps + (inputsNow s).wdtpsTicks
        irq := irqNow s
        device := deviceNow s }) ∧
    (s.par.wdtEnabled = false →
      chooseEvent (inputsNow s) s.latchInputs = chooseEvent { inputsNow s with wdtTimeout := false } s.latchInputs)

/-- A sleeping core executes nothing. Without a reset or a time-out, an enabled source that can wake it ends the sleep whatever GIE holds,
and changes nothing else but what the inputs bring; no such source, and it sleeps on (60_exceptions.md section 4: decision D11
of the spec; the idle step is the model's choice, log entry 15). -/
def Obligations.SleepingCoreOnlyWakes : Prop :=
  ∀ s : State, NoResetNow s → s.sleeping = true →
    step s = .next { s with
      sleeping := !irqWake (irqNow s)
      inputs := s.inputs.tail
      wdt := s.wdt + (inputsNow s).wdtTicks
      wdtps := s.wdtps + (inputsNow s).wdtpsTicks
      irq := irqNow s
      device := deviceNow s }

/-- The ways out of sleep, all of them: /MCLR, a time-out of an enabled WDT, one of the three named interrupt sources, which must be
enabled; with the WDT disabled and none of them enabled, only a reset. A step of a sleeping core never stops, because a core that
sleeps on has an idle step in the model (the model's choice, log entry 15; 60_exceptions.md section 4, 45_system.md). -/
def Obligations.ThreeWaysOutOfSleep : Prop :=
  ∀ s : State, s.sleeping = true →
    ∃ t, step s = .next t ∧
      (t.sleeping = false ↔
        (inputsNow s).mclr = true ∨ ((inputsNow s).wdtTimeout = true ∧ s.par.wdtEnabled = true) ∨
        ∃ q ∈ [SourceName.rb0Int, .rbChange, .eeWrite], (irqGet q (irqNow s)).enable = true ∧
          (irqGet q (irqNow s)).wake = true) ∧
      (s.par.wdtEnabled = false → (∀ q ∈ [SourceName.rb0Int, .rbChange, .eeWrite], (irqGet q (irqNow s)).enable = false) →
        (t.sleeping = false ↔ (inputsNow s).mclr = true))

/-- A run that is over stays over, for any number of steps, and changes nothing but what the inputs bring: the schedule shortens, the
counters tick, the sources and the devices move; with no input left, nothing at all (70_reset_and_hazards.md section 2: decision D11
of the spec; that an ended schedule brings nothing more and that a sleeping core has an idle step are the model's choices, log entries
9 and 15). -/
def Obligations.RunThatIsOverStaysPut : Prop :=
  ∀ (n : Nat) (s : State), RunOver s →
    ∃ t, Sys2Proof.core.run n s = .next t ∧ RunOver t ∧
      t = { s with inputs := s.inputs.drop n, wdt := t.wdt, wdtps := t.wdtps, irq := t.irq, device := t.device } ∧
      (s.inputs = [] → t = s)

/-- The reset state: awake, GIE = 0, the stack empty, WDT and prescaler 0, pc, PCLATCH, TO and PD at the parameters' values
(70_reset_and_hazards.md section 1: decision D9 of the spec; the parameters' own values are log entries 3 to 5). -/
def Obligations.ResetStateHasTheDecidedValues : Prop :=
  State.reset.sleeping = false ∧ State.reset.gie = false ∧ State.reset.stack = [] ∧ State.reset.wdt = 0 ∧
  State.reset.wdtps = 0 ∧ State.reset.pc = State.reset.par.resetVector ∧
  State.reset.pclatch = State.reset.par.resetPclatch ∧ State.reset.toFlag = State.reset.par.resetTo ∧
  State.reset.pdFlag = State.reset.par.resetPd ∧ State.reset.par.sfrMap = []
end

