-- ==== Sys2Proof/Laws/Memory.lean ====
section
/-! SUPPORT. The laws of the two memories: a read after a write, and the canonical form, which every operation keeps. -/

namespace Sys2Proof.Machine

open Sys2Proof

/-! Data memory -/

theorem memRead_memCons (x : Nat) (v : Byte) (m : Memory) (y : Nat) (h : x = y → v = Config.unlistedByte →
    memRead m y = Config.unlistedByte) : memRead (memCons x v m) y = if x = y then v else memRead m y := by
  unfold memCons
  by_cases hv : v = Config.unlistedByte
  · by_cases hx : x = y
    · simp [hv, hx, h hx hv]
    · simp [hv, hx]
  · simp [hv, memRead]

theorem memRead_below {lo : Nat} {m : Memory} (hm : memWfFrom lo m = true) {x : Nat} (hx : x < lo) :
    memRead m x = Config.unlistedByte := by
  induction m generalizing lo with
  | nil => rfl
  | cons e m ih =>
    obtain ⟨a, v⟩ := e
    simp only [memWfFrom, Bool.and_eq_true, decide_eq_true_eq] at hm
    have hne : a ≠ x := by omega
    simp only [memRead, hne, if_false]
    exact ih hm.2 (by omega)

theorem memRead_memWrite_from {lo : Nat} {m : Memory} (hm : memWfFrom lo m = true) (x : Nat) (v : Byte) (y : Nat) :
    memRead (memWrite m x v) y = if x = y then v else memRead m y := by
  induction m generalizing lo with
  | nil => exact memRead_memCons x v [] y (fun _ _ => rfl)
  | cons e m ih =>
    obtain ⟨a, u⟩ := e
    have hm' := hm
    simp only [memWfFrom, Bool.and_eq_true, decide_eq_true_eq] at hm
    unfold memWrite
    by_cases h1 : a < x
    · simp only [h1, if_true, memRead]
      by_cases hay : a = y
      · have : x ≠ y := by omega
        simp [hay, this]
      · simp only [hay, if_false]
        exact ih hm.2
    · by_cases h2 : a = x
      · subst h2
        have hb : memRead m a = Config.unlistedByte := memRead_below hm.2 (Nat.lt_succ_self a)
        simp only [h1, if_false, if_true]
        rw [memRead_memCons a v m y (fun h _ => h ▸ hb)]
        by_cases hay : a = y
        · simp [hay]
        · simp [hay, memRead]
      · simp only [h1, h2, if_false]
        refine memRead_memCons x v ((a, u) :: m) y (fun h _ => ?_)
        have hxa : memWfFrom a ((a, u) :: m) = true := by
          simp only [memWfFrom, Bool.and_eq_true, decide_eq_true_eq]
          exact ⟨⟨⟨Nat.le_refl a, hm.1.1.2⟩, hm.1.2⟩, hm.2⟩
        exact memRead_below hxa (by omega)

/-- The law of the f registers (20_memory.md R61): a write changes its cell to the value written and nothing else. -/
theorem memRead_memWrite {m : Memory} (hm : m.wf = true) (x : Nat) (v : Byte) (y : Nat) :
    memRead (memWrite m x v) y = if x = y then v else memRead m y :=
  memRead_memWrite_from hm x v y

theorem memWfFrom_mono {lo lo' : Nat} (h : lo' ≤ lo) {m : Memory} (hm : memWfFrom lo m = true) :
    memWfFrom lo' m = true := by
  cases m with
  | nil => rfl
  | cons e m =>
    simp only [memWfFrom, Bool.and_eq_true, decide_eq_true_eq] at hm ⊢
    exact ⟨⟨⟨by omega, hm.1.1.2⟩, hm.1.2⟩, hm.2⟩

theorem memCons_wf {lo x : Nat} {v : Byte} {m : Memory} (hlo : lo ≤ x) (hx : x < 128)
    (hm : memWfFrom (x + 1) m = true) : memWfFrom lo (memCons x v m) = true := by
  unfold memCons
  by_cases hv : v = Config.unlistedByte
  · simpa [hv] using memWfFrom_mono (by omega) hm
  · simp [hv, memWfFrom, hlo, hx, hm]

theorem memWrite_wf_from {lo : Nat} {m : Memory} (hm : memWfFrom lo m = true) {x : Nat} (v : Byte) (hlo : lo ≤ x)
    (hx : x < 128) : memWfFrom lo (memWrite m x v) = true := by
  induction m generalizing lo with
  | nil => exact memCons_wf hlo hx rfl
  | cons e m ih =>
    obtain ⟨a, u⟩ := e
    have hm' := hm
    simp only [memWfFrom, Bool.and_eq_true, decide_eq_true_eq] at hm
    unfold memWrite
    by_cases h1 : a < x
    · simp only [h1, if_true, memWfFrom, Bool.and_eq_true, decide_eq_true_eq]
      exact ⟨hm.1, ih hm.2 (by omega)⟩
    · by_cases h2 : a = x
      · subst h2
        simpa [h1] using memCons_wf hlo hx hm.2
      · simp only [h1, h2, if_false]
        refine memCons_wf hlo hx ?_
        simp only [memWfFrom, Bool.and_eq_true, decide_eq_true_eq]
        exact ⟨⟨⟨by omega, hm.1.1.2⟩, hm.1.2⟩, hm.2⟩

/-- A write to an f value keeps the canonical form. -/
theorem memWrite_wf {m : Memory} (hm : m.wf = true) {x : Nat} (hx : x < 128) (v : Byte) :
    Memory.wf (memWrite m x v) = true :=
  memWrite_wf_from hm v (Nat.zero_le x) hx

theorem foldl_memWrite_wf (g : Nat → Byte) (l : List Nat) (hl : ∀ a ∈ l, a < 128) (m : Memory) (hm : m.wf = true) :
    Memory.wf (l.foldl (fun m a => memWrite m a (g a)) m) = true := by
  induction l generalizing m with
  | nil => exact hm
  | cons a l ih =>
    exact ih (fun b hb => hl b (List.mem_cons_of_mem _ hb)) _ (memWrite_wf hm (hl a (List.mem_cons_self ..)) _)

/-- Registers made from what they read as are in canonical form. -/
theorem cellsOf_wf (g : Nat → Byte) : Memory.wf (cellsOf g) = true := by
  unfold cellsOf
  exact foldl_memWrite_wf _ _ (fun _ h => List.mem_range.mp h) _ rfl

/-- The cells a reset event leaves are in canonical form. -/
theorem unknownCells_wf (n : Nat) : Memory.wf (unknownCells n) = true := cellsOf_wf _

theorem foldl_memWrite_read (g : Nat → Byte) (l : List Nat) (hl : ∀ a ∈ l, a < 128) (m : Memory) (hm : m.wf = true)
    (y : Nat) (h : y ∈ l ∨ memRead m y = g y) :
    memRead (l.foldl (fun m a => memWrite m a (g a)) m) y = g y := by
  induction l generalizing m with
  | nil => simpa using h
  | cons a l ih =>
    refine ih (fun b hb => hl b (List.mem_cons_of_mem _ hb)) _ (memWrite_wf hm (hl a (List.mem_cons_self ..)) _) ?_
    rw [memRead_memWrite hm]
    by_cases hay : a = y
    · right; simp [hay]
    · rcases h with h | h
      · left
        rcases List.mem_cons.mp h with h | h
        · exact absurd h.symm hay
        · exact h
      · right; simp [hay, h]

/-- Registers made from what they read as read so. -/
theorem memRead_cellsOf (g : Nat → Byte) {y : Nat} (hy : y < 128) : memRead (cellsOf g) y = g y := by
  unfold cellsOf
  exact foldl_memWrite_read _ _ (fun _ h => List.mem_range.mp h) _ rfl y (Or.inl (List.mem_range.mpr hy))

/-- Each f register holds its own free byte after a reset event. -/
theorem memRead_unknownCells (n : Nat) {y : Nat} (hy : y < 128) : memRead (unknownCells n) y = Config.freeByte n y :=
  memRead_cellsOf _ hy

/-! Program memory -/

/-- A fetch after a load gives the word loaded, and every other word is as before. -/
theorem progRead_progWrite_same (m : ProgMemory) (x : Nat) (w : InstrWord) : progRead (progWrite m x w) x = some w := by
  induction m with
  | nil => simp [progWrite, progRead]
  | cons e m ih =>
    obtain ⟨a, u⟩ := e
    unfold progWrite
    by_cases h1 : a < x
    · have : a ≠ x := by omega
      simp [h1, progRead, this, ih]
    · by_cases h2 : a = x
      · simp [h2, progRead]
      · simp [h1, h2, progRead]

theorem progWrite_wf_from {lo : Nat} {m : ProgMemory} (hm : progWfFrom lo m = true) {x : Nat} (w : InstrWord)
    (hlo : lo ≤ x) (hx : x < 8192) : progWfFrom lo (progWrite m x w) = true := by
  induction m generalizing lo with
  | nil => simp [progWrite, progWfFrom, hlo, hx]
  | cons e m ih =>
    obtain ⟨a, u⟩ := e
    simp only [progWfFrom, Bool.and_eq_true, decide_eq_true_eq] at hm
    unfold progWrite
    by_cases h1 : a < x
    · simp only [h1, if_true, progWfFrom, Bool.and_eq_true, decide_eq_true_eq]
      exact ⟨hm.1, ih hm.2 (by omega)⟩
    · by_cases h2 : a = x
      · subst h2
        simp [progWfFrom, hlo, hx, hm.2]
      · simp only [h1, h2, if_false, progWfFrom, Bool.and_eq_true, decide_eq_true_eq]
        exact ⟨⟨hlo, hx⟩, ⟨by omega, hm.1.2⟩, hm.2⟩

/-- Loading a word at a 13-bit address keeps the canonical form. -/
theorem progWrite_wf {m : ProgMemory} (hm : m.wf = true) (a : PAddr) (w : InstrWord) :
    ProgMemory.wf (progWrite m a.toNat w) = true :=
  progWrite_wf_from hm w (Nat.zero_le _) a.isLt

end Sys2Proof.Machine
end

