-- ==== Sys2Proof/Laws/State.lean ====
section
/-! SUPPORT. One lemma per field per named update of the state, each true by rfl. -/

namespace Sys2Proof.Machine

open Sys2Proof

/-! W written -/

section
variable (s : State) (v : Byte)

@[simp] theorem setW_w : (State.setW v s).w = v := rfl
@[simp] theorem setW_pc : (State.setW v s).pc = s.pc := rfl
@[simp] theorem setW_c : (State.setW v s).c = s.c := rfl
@[simp] theorem setW_dc : (State.setW v s).dc = s.dc := rfl
@[simp] theorem setW_z : (State.setW v s).z = s.z := rfl
@[simp] theorem setW_toFlag : (State.setW v s).toFlag = s.toFlag := rfl
@[simp] theorem setW_pdFlag : (State.setW v s).pdFlag = s.pdFlag := rfl
@[simp] theorem setW_gie : (State.setW v s).gie = s.gie := rfl
@[simp] theorem setW_pclatch : (State.setW v s).pclatch = s.pclatch := rfl
@[simp] theorem setW_stack : (State.setW v s).stack = s.stack := rfl
@[simp] theorem setW_wdt : (State.setW v s).wdt = s.wdt := rfl
@[simp] theorem setW_wdtps : (State.setW v s).wdtps = s.wdtps := rfl
@[simp] theorem setW_sleeping : (State.setW v s).sleeping = s.sleeping := rfl
@[simp] theorem setW_mem : (State.setW v s).mem = s.mem := rfl
@[simp] theorem setW_irq : (State.setW v s).irq = s.irq := rfl
@[simp] theorem setW_device : (State.setW v s).device = s.device := rfl
@[simp] theorem setW_inputs : (State.setW v s).inputs = s.inputs := rfl
@[simp] theorem setW_draws : (State.setW v s).draws = s.draws := rfl
@[simp] theorem setW_prog : (State.setW v s).prog = s.prog := rfl
@[simp] theorem setW_par : (State.setW v s).par = s.par := rfl

end

/-! Z written from a result -/

section
variable (s : State) (r : Byte)

@[simp] theorem setZ_w : (State.setZ r s).w = s.w := rfl
@[simp] theorem setZ_pc : (State.setZ r s).pc = s.pc := rfl
@[simp] theorem setZ_c : (State.setZ r s).c = s.c := rfl
@[simp] theorem setZ_dc : (State.setZ r s).dc = s.dc := rfl
@[simp] theorem setZ_z : (State.setZ r s).z = zeroFlag r := rfl
@[simp] theorem setZ_toFlag : (State.setZ r s).toFlag = s.toFlag := rfl
@[simp] theorem setZ_pdFlag : (State.setZ r s).pdFlag = s.pdFlag := rfl
@[simp] theorem setZ_gie : (State.setZ r s).gie = s.gie := rfl
@[simp] theorem setZ_pclatch : (State.setZ r s).pclatch = s.pclatch := rfl
@[simp] theorem setZ_stack : (State.setZ r s).stack = s.stack := rfl
@[simp] theorem setZ_wdt : (State.setZ r s).wdt = s.wdt := rfl
@[simp] theorem setZ_wdtps : (State.setZ r s).wdtps = s.wdtps := rfl
@[simp] theorem setZ_sleeping : (State.setZ r s).sleeping = s.sleeping := rfl
@[simp] theorem setZ_mem : (State.setZ r s).mem = s.mem := rfl
@[simp] theorem setZ_irq : (State.setZ r s).irq = s.irq := rfl
@[simp] theorem setZ_device : (State.setZ r s).device = s.device := rfl
@[simp] theorem setZ_inputs : (State.setZ r s).inputs = s.inputs := rfl
@[simp] theorem setZ_draws : (State.setZ r s).draws = s.draws := rfl
@[simp] theorem setZ_prog : (State.setZ r s).prog = s.prog := rfl
@[simp] theorem setZ_par : (State.setZ r s).par = s.par := rfl

end

/-! C written -/

section
variable (s : State) (v : Bool)

@[simp] theorem setC_w : (State.setC v s).w = s.w := rfl
@[simp] theorem setC_pc : (State.setC v s).pc = s.pc := rfl
@[simp] theorem setC_c : (State.setC v s).c = v := rfl
@[simp] theorem setC_dc : (State.setC v s).dc = s.dc := rfl
@[simp] theorem setC_z : (State.setC v s).z = s.z := rfl
@[simp] theorem setC_toFlag : (State.setC v s).toFlag = s.toFlag := rfl
@[simp] theorem setC_pdFlag : (State.setC v s).pdFlag = s.pdFlag := rfl
@[simp] theorem setC_gie : (State.setC v s).gie = s.gie := rfl
@[simp] theorem setC_pclatch : (State.setC v s).pclatch = s.pclatch := rfl
@[simp] theorem setC_stack : (State.setC v s).stack = s.stack := rfl
@[simp] theorem setC_wdt : (State.setC v s).wdt = s.wdt := rfl
@[simp] theorem setC_wdtps : (State.setC v s).wdtps = s.wdtps := rfl
@[simp] theorem setC_sleeping : (State.setC v s).sleeping = s.sleeping := rfl
@[simp] theorem setC_mem : (State.setC v s).mem = s.mem := rfl
@[simp] theorem setC_irq : (State.setC v s).irq = s.irq := rfl
@[simp] theorem setC_device : (State.setC v s).device = s.device := rfl
@[simp] theorem setC_inputs : (State.setC v s).inputs = s.inputs := rfl
@[simp] theorem setC_draws : (State.setC v s).draws = s.draws := rfl
@[simp] theorem setC_prog : (State.setC v s).prog = s.prog := rfl
@[simp] theorem setC_par : (State.setC v s).par = s.par := rfl

end

/-! AddFlags -/

section
variable (s : State) (a b : Byte)

@[simp] theorem addFlags_w : (State.addFlags a b s).w = s.w := rfl
@[simp] theorem addFlags_pc : (State.addFlags a b s).pc = s.pc := rfl
@[simp] theorem addFlags_c : (State.addFlags a b s).c = addCarry a b := rfl
@[simp] theorem addFlags_dc : (State.addFlags a b s).dc = addDigitCarry a b := rfl
@[simp] theorem addFlags_z : (State.addFlags a b s).z = zeroFlag (a + b) := rfl
@[simp] theorem addFlags_toFlag : (State.addFlags a b s).toFlag = s.toFlag := rfl
@[simp] theorem addFlags_pdFlag : (State.addFlags a b s).pdFlag = s.pdFlag := rfl
@[simp] theorem addFlags_gie : (State.addFlags a b s).gie = s.gie := rfl
@[simp] theorem addFlags_pclatch : (State.addFlags a b s).pclatch = s.pclatch := rfl
@[simp] theorem addFlags_stack : (State.addFlags a b s).stack = s.stack := rfl
@[simp] theorem addFlags_wdt : (State.addFlags a b s).wdt = s.wdt := rfl
@[simp] theorem addFlags_wdtps : (State.addFlags a b s).wdtps = s.wdtps := rfl
@[simp] theorem addFlags_sleeping : (State.addFlags a b s).sleeping = s.sleeping := rfl
@[simp] theorem addFlags_mem : (State.addFlags a b s).mem = s.mem := rfl
@[simp] theorem addFlags_irq : (State.addFlags a b s).irq = s.irq := rfl
@[simp] theorem addFlags_device : (State.addFlags a b s).device = s.device := rfl
@[simp] theorem addFlags_inputs : (State.addFlags a b s).inputs = s.inputs := rfl
@[simp] theorem addFlags_draws : (State.addFlags a b s).draws = s.draws := rfl
@[simp] theorem addFlags_prog : (State.addFlags a b s).prog = s.prog := rfl
@[simp] theorem addFlags_par : (State.addFlags a b s).par = s.par := rfl

end

/-! SubFlags -/

section
variable (s : State) (a b : Byte)

@[simp] theorem subFlags_w : (State.subFlags a b s).w = s.w := rfl
@[simp] theorem subFlags_pc : (State.subFlags a b s).pc = s.pc := rfl
@[simp] theorem subFlags_c : (State.subFlags a b s).c = subCarry a b := rfl
@[simp] theorem subFlags_dc : (State.subFlags a b s).dc = subDigitCarry a b := rfl
@[simp] theorem subFlags_z : (State.subFlags a b s).z = zeroFlag (a - b) := rfl
@[simp] theorem subFlags_toFlag : (State.subFlags a b s).toFlag = s.toFlag := rfl
@[simp] theorem subFlags_pdFlag : (State.subFlags a b s).pdFlag = s.pdFlag := rfl
@[simp] theorem subFlags_gie : (State.subFlags a b s).gie = s.gie := rfl
@[simp] theorem subFlags_pclatch : (State.subFlags a b s).pclatch = s.pclatch := rfl
@[simp] theorem subFlags_stack : (State.subFlags a b s).stack = s.stack := rfl
@[simp] theorem subFlags_wdt : (State.subFlags a b s).wdt = s.wdt := rfl
@[simp] theorem subFlags_wdtps : (State.subFlags a b s).wdtps = s.wdtps := rfl
@[simp] theorem subFlags_sleeping : (State.subFlags a b s).sleeping = s.sleeping := rfl
@[simp] theorem subFlags_mem : (State.subFlags a b s).mem = s.mem := rfl
@[simp] theorem subFlags_irq : (State.subFlags a b s).irq = s.irq := rfl
@[simp] theorem subFlags_device : (State.subFlags a b s).device = s.device := rfl
@[simp] theorem subFlags_inputs : (State.subFlags a b s).inputs = s.inputs := rfl
@[simp] theorem subFlags_draws : (State.subFlags a b s).draws = s.draws := rfl
@[simp] theorem subFlags_prog : (State.subFlags a b s).prog = s.prog := rfl
@[simp] theorem subFlags_par : (State.subFlags a b s).par = s.par := rfl

end

/-! sequential advance -/

section
variable (s : State)

@[simp] theorem advance_w : (s.advance).w = s.w := rfl
@[simp] theorem advance_pc : (s.advance).pc = s.pc + 1 := rfl
@[simp] theorem advance_c : (s.advance).c = s.c := rfl
@[simp] theorem advance_dc : (s.advance).dc = s.dc := rfl
@[simp] theorem advance_z : (s.advance).z = s.z := rfl
@[simp] theorem advance_toFlag : (s.advance).toFlag = s.toFlag := rfl
@[simp] theorem advance_pdFlag : (s.advance).pdFlag = s.pdFlag := rfl
@[simp] theorem advance_gie : (s.advance).gie = s.gie := rfl
@[simp] theorem advance_pclatch : (s.advance).pclatch = s.pclatch := rfl
@[simp] theorem advance_stack : (s.advance).stack = s.stack := rfl
@[simp] theorem advance_wdt : (s.advance).wdt = s.wdt := rfl
@[simp] theorem advance_wdtps : (s.advance).wdtps = s.wdtps := rfl
@[simp] theorem advance_sleeping : (s.advance).sleeping = s.sleeping := rfl
@[simp] theorem advance_mem : (s.advance).mem = s.mem := rfl
@[simp] theorem advance_irq : (s.advance).irq = s.irq := rfl
@[simp] theorem advance_device : (s.advance).device = s.device := rfl
@[simp] theorem advance_inputs : (s.advance).inputs = s.inputs := rfl
@[simp] theorem advance_draws : (s.advance).draws = s.draws := rfl
@[simp] theorem advance_prog : (s.advance).prog = s.prog := rfl
@[simp] theorem advance_par : (s.advance).par = s.par := rfl

end

/-! the skip -/

section
variable (s : State)

@[simp] theorem skipNext_w : (s.skipNext).w = s.w := rfl
@[simp] theorem skipNext_pc : (s.skipNext).pc = s.pc + 2 := rfl
@[simp] theorem skipNext_c : (s.skipNext).c = s.c := rfl
@[simp] theorem skipNext_dc : (s.skipNext).dc = s.dc := rfl
@[simp] theorem skipNext_z : (s.skipNext).z = s.z := rfl
@[simp] theorem skipNext_toFlag : (s.skipNext).toFlag = s.toFlag := rfl
@[simp] theorem skipNext_pdFlag : (s.skipNext).pdFlag = s.pdFlag := rfl
@[simp] theorem skipNext_gie : (s.skipNext).gie = s.gie := rfl
@[simp] theorem skipNext_pclatch : (s.skipNext).pclatch = s.pclatch := rfl
@[simp] theorem skipNext_stack : (s.skipNext).stack = s.stack := rfl
@[simp] theorem skipNext_wdt : (s.skipNext).wdt = s.wdt := rfl
@[simp] theorem skipNext_wdtps : (s.skipNext).wdtps = s.wdtps := rfl
@[simp] theorem skipNext_sleeping : (s.skipNext).sleeping = s.sleeping := rfl
@[simp] theorem skipNext_mem : (s.skipNext).mem = s.mem := rfl
@[simp] theorem skipNext_irq : (s.skipNext).irq = s.irq := rfl
@[simp] theorem skipNext_device : (s.skipNext).device = s.device := rfl
@[simp] theorem skipNext_inputs : (s.skipNext).inputs = s.inputs := rfl
@[simp] theorem skipNext_draws : (s.skipNext).draws = s.draws := rfl
@[simp] theorem skipNext_prog : (s.skipNext).prog = s.prog := rfl
@[simp] theorem skipNext_par : (s.skipNext).par = s.par := rfl

end

/-! pc assigned -/

section
variable (s : State) (a : PAddr)

@[simp] theorem jump_w : (State.jump a s).w = s.w := rfl
@[simp] theorem jump_pc : (State.jump a s).pc = a := rfl
@[simp] theorem jump_c : (State.jump a s).c = s.c := rfl
@[simp] theorem jump_dc : (State.jump a s).dc = s.dc := rfl
@[simp] theorem jump_z : (State.jump a s).z = s.z := rfl
@[simp] theorem jump_toFlag : (State.jump a s).toFlag = s.toFlag := rfl
@[simp] theorem jump_pdFlag : (State.jump a s).pdFlag = s.pdFlag := rfl
@[simp] theorem jump_gie : (State.jump a s).gie = s.gie := rfl
@[simp] theorem jump_pclatch : (State.jump a s).pclatch = s.pclatch := rfl
@[simp] theorem jump_stack : (State.jump a s).stack = s.stack := rfl
@[simp] theorem jump_wdt : (State.jump a s).wdt = s.wdt := rfl
@[simp] theorem jump_wdtps : (State.jump a s).wdtps = s.wdtps := rfl
@[simp] theorem jump_sleeping : (State.jump a s).sleeping = s.sleeping := rfl
@[simp] theorem jump_mem : (State.jump a s).mem = s.mem := rfl
@[simp] theorem jump_irq : (State.jump a s).irq = s.irq := rfl
@[simp] theorem jump_device : (State.jump a s).device = s.device := rfl
@[simp] theorem jump_inputs : (State.jump a s).inputs = s.inputs := rfl
@[simp] theorem jump_draws : (State.jump a s).draws = s.draws := rfl
@[simp] theorem jump_prog : (State.jump a s).prog = s.prog := rfl
@[simp] theorem jump_par : (State.jump a s).par = s.par := rfl

end

/-! GIE written -/

section
variable (s : State) (v : Bool)

@[simp] theorem setGie_w : (State.setGie v s).w = s.w := rfl
@[simp] theorem setGie_pc : (State.setGie v s).pc = s.pc := rfl
@[simp] theorem setGie_c : (State.setGie v s).c = s.c := rfl
@[simp] theorem setGie_dc : (State.setGie v s).dc = s.dc := rfl
@[simp] theorem setGie_z : (State.setGie v s).z = s.z := rfl
@[simp] theorem setGie_toFlag : (State.setGie v s).toFlag = s.toFlag := rfl
@[simp] theorem setGie_pdFlag : (State.setGie v s).pdFlag = s.pdFlag := rfl
@[simp] theorem setGie_gie : (State.setGie v s).gie = v := rfl
@[simp] theorem setGie_pclatch : (State.setGie v s).pclatch = s.pclatch := rfl
@[simp] theorem setGie_stack : (State.setGie v s).stack = s.stack := rfl
@[simp] theorem setGie_wdt : (State.setGie v s).wdt = s.wdt := rfl
@[simp] theorem setGie_wdtps : (State.setGie v s).wdtps = s.wdtps := rfl
@[simp] theorem setGie_sleeping : (State.setGie v s).sleeping = s.sleeping := rfl
@[simp] theorem setGie_mem : (State.setGie v s).mem = s.mem := rfl
@[simp] theorem setGie_irq : (State.setGie v s).irq = s.irq := rfl
@[simp] theorem setGie_device : (State.setGie v s).device = s.device := rfl
@[simp] theorem setGie_inputs : (State.setGie v s).inputs = s.inputs := rfl
@[simp] theorem setGie_draws : (State.setGie v s).draws = s.draws := rfl
@[simp] theorem setGie_prog : (State.setGie v s).prog = s.prog := rfl
@[simp] theorem setGie_par : (State.setGie v s).par = s.par := rfl

end

/-! the stack replaced -/

section
variable (s : State) (l : List PAddr)

@[simp] theorem setStack_w : (State.setStack l s).w = s.w := rfl
@[simp] theorem setStack_pc : (State.setStack l s).pc = s.pc := rfl
@[simp] theorem setStack_c : (State.setStack l s).c = s.c := rfl
@[simp] theorem setStack_dc : (State.setStack l s).dc = s.dc := rfl
@[simp] theorem setStack_z : (State.setStack l s).z = s.z := rfl
@[simp] theorem setStack_toFlag : (State.setStack l s).toFlag = s.toFlag := rfl
@[simp] theorem setStack_pdFlag : (State.setStack l s).pdFlag = s.pdFlag := rfl
@[simp] theorem setStack_gie : (State.setStack l s).gie = s.gie := rfl
@[simp] theorem setStack_pclatch : (State.setStack l s).pclatch = s.pclatch := rfl
@[simp] theorem setStack_stack : (State.setStack l s).stack = l := rfl
@[simp] theorem setStack_wdt : (State.setStack l s).wdt = s.wdt := rfl
@[simp] theorem setStack_wdtps : (State.setStack l s).wdtps = s.wdtps := rfl
@[simp] theorem setStack_sleeping : (State.setStack l s).sleeping = s.sleeping := rfl
@[simp] theorem setStack_mem : (State.setStack l s).mem = s.mem := rfl
@[simp] theorem setStack_irq : (State.setStack l s).irq = s.irq := rfl
@[simp] theorem setStack_device : (State.setStack l s).device = s.device := rfl
@[simp] theorem setStack_inputs : (State.setStack l s).inputs = s.inputs := rfl
@[simp] theorem setStack_draws : (State.setStack l s).draws = s.draws := rfl
@[simp] theorem setStack_prog : (State.setStack l s).prog = s.prog := rfl
@[simp] theorem setStack_par : (State.setStack l s).par = s.par := rfl

end

/-! the watchdog cleared -/

section
variable (s : State) (v : Bool)

@[simp] theorem clearWatchdog_w : (State.clearWatchdog v s).w = s.w := rfl
@[simp] theorem clearWatchdog_pc : (State.clearWatchdog v s).pc = s.pc := rfl
@[simp] theorem clearWatchdog_c : (State.clearWatchdog v s).c = s.c := rfl
@[simp] theorem clearWatchdog_dc : (State.clearWatchdog v s).dc = s.dc := rfl
@[simp] theorem clearWatchdog_z : (State.clearWatchdog v s).z = s.z := rfl
@[simp] theorem clearWatchdog_toFlag : (State.clearWatchdog v s).toFlag = true := rfl
@[simp] theorem clearWatchdog_pdFlag : (State.clearWatchdog v s).pdFlag = v := rfl
@[simp] theorem clearWatchdog_gie : (State.clearWatchdog v s).gie = s.gie := rfl
@[simp] theorem clearWatchdog_pclatch : (State.clearWatchdog v s).pclatch = s.pclatch := rfl
@[simp] theorem clearWatchdog_stack : (State.clearWatchdog v s).stack = s.stack := rfl
@[simp] theorem clearWatchdog_wdt : (State.clearWatchdog v s).wdt = 0 := rfl
@[simp] theorem clearWatchdog_wdtps : (State.clearWatchdog v s).wdtps = 0 := rfl
@[simp] theorem clearWatchdog_sleeping : (State.clearWatchdog v s).sleeping = s.sleeping := rfl
@[simp] theorem clearWatchdog_mem : (State.clearWatchdog v s).mem = s.mem := rfl
@[simp] theorem clearWatchdog_irq : (State.clearWatchdog v s).irq = s.irq := rfl
@[simp] theorem clearWatchdog_device : (State.clearWatchdog v s).device = s.device := rfl
@[simp] theorem clearWatchdog_inputs : (State.clearWatchdog v s).inputs = s.inputs := rfl
@[simp] theorem clearWatchdog_draws : (State.clearWatchdog v s).draws = s.draws := rfl
@[simp] theorem clearWatchdog_prog : (State.clearWatchdog v s).prog = s.prog := rfl
@[simp] theorem clearWatchdog_par : (State.clearWatchdog v s).par = s.par := rfl

end

/-! power-down entered or left -/

section
variable (s : State) (v : Bool)

@[simp] theorem setSleeping_w : (State.setSleeping v s).w = s.w := rfl
@[simp] theorem setSleeping_pc : (State.setSleeping v s).pc = s.pc := rfl
@[simp] theorem setSleeping_c : (State.setSleeping v s).c = s.c := rfl
@[simp] theorem setSleeping_dc : (State.setSleeping v s).dc = s.dc := rfl
@[simp] theorem setSleeping_z : (State.setSleeping v s).z = s.z := rfl
@[simp] theorem setSleeping_toFlag : (State.setSleeping v s).toFlag = s.toFlag := rfl
@[simp] theorem setSleeping_pdFlag : (State.setSleeping v s).pdFlag = s.pdFlag := rfl
@[simp] theorem setSleeping_gie : (State.setSleeping v s).gie = s.gie := rfl
@[simp] theorem setSleeping_pclatch : (State.setSleeping v s).pclatch = s.pclatch := rfl
@[simp] theorem setSleeping_stack : (State.setSleeping v s).stack = s.stack := rfl
@[simp] theorem setSleeping_wdt : (State.setSleeping v s).wdt = s.wdt := rfl
@[simp] theorem setSleeping_wdtps : (State.setSleeping v s).wdtps = s.wdtps := rfl
@[simp] theorem setSleeping_sleeping : (State.setSleeping v s).sleeping = v := rfl
@[simp] theorem setSleeping_mem : (State.setSleeping v s).mem = s.mem := rfl
@[simp] theorem setSleeping_irq : (State.setSleeping v s).irq = s.irq := rfl
@[simp] theorem setSleeping_device : (State.setSleeping v s).device = s.device := rfl
@[simp] theorem setSleeping_inputs : (State.setSleeping v s).inputs = s.inputs := rfl
@[simp] theorem setSleeping_draws : (State.setSleeping v s).draws = s.draws := rfl
@[simp] theorem setSleeping_prog : (State.setSleeping v s).prog = s.prog := rfl
@[simp] theorem setSleeping_par : (State.setSleeping v s).par = s.par := rfl

end

/-! TO written -/

section
variable (s : State) (v : Bool)

@[simp] theorem setTo_w : (State.setTo v s).w = s.w := rfl
@[simp] theorem setTo_pc : (State.setTo v s).pc = s.pc := rfl
@[simp] theorem setTo_c : (State.setTo v s).c = s.c := rfl
@[simp] theorem setTo_dc : (State.setTo v s).dc = s.dc := rfl
@[simp] theorem setTo_z : (State.setTo v s).z = s.z := rfl
@[simp] theorem setTo_toFlag : (State.setTo v s).toFlag = v := rfl
@[simp] theorem setTo_pdFlag : (State.setTo v s).pdFlag = s.pdFlag := rfl
@[simp] theorem setTo_gie : (State.setTo v s).gie = s.gie := rfl
@[simp] theorem setTo_pclatch : (State.setTo v s).pclatch = s.pclatch := rfl
@[simp] theorem setTo_stack : (State.setTo v s).stack = s.stack := rfl
@[simp] theorem setTo_wdt : (State.setTo v s).wdt = s.wdt := rfl
@[simp] theorem setTo_wdtps : (State.setTo v s).wdtps = s.wdtps := rfl
@[simp] theorem setTo_sleeping : (State.setTo v s).sleeping = s.sleeping := rfl
@[simp] theorem setTo_mem : (State.setTo v s).mem = s.mem := rfl
@[simp] theorem setTo_irq : (State.setTo v s).irq = s.irq := rfl
@[simp] theorem setTo_device : (State.setTo v s).device = s.device := rfl
@[simp] theorem setTo_inputs : (State.setTo v s).inputs = s.inputs := rfl
@[simp] theorem setTo_draws : (State.setTo v s).draws = s.draws := rfl
@[simp] theorem setTo_prog : (State.setTo v s).prog = s.prog := rfl
@[simp] theorem setTo_par : (State.setTo v s).par = s.par := rfl

end

/-! the inputs of a boundary taken in -/

section
variable (s : State)

@[simp] theorem latchInputs_w : (s.latchInputs).w = s.w := rfl
@[simp] theorem latchInputs_pc : (s.latchInputs).pc = s.pc := rfl
@[simp] theorem latchInputs_c : (s.latchInputs).c = s.c := rfl
@[simp] theorem latchInputs_dc : (s.latchInputs).dc = s.dc := rfl
@[simp] theorem latchInputs_z : (s.latchInputs).z = s.z := rfl
@[simp] theorem latchInputs_toFlag : (s.latchInputs).toFlag = s.toFlag := rfl
@[simp] theorem latchInputs_pdFlag : (s.latchInputs).pdFlag = s.pdFlag := rfl
@[simp] theorem latchInputs_gie : (s.latchInputs).gie = s.gie := rfl
@[simp] theorem latchInputs_pclatch : (s.latchInputs).pclatch = s.pclatch := rfl
@[simp] theorem latchInputs_stack : (s.latchInputs).stack = s.stack := rfl
@[simp] theorem latchInputs_wdt : (s.latchInputs).wdt = s.wdt + (inputsNow s).wdtTicks := rfl
@[simp] theorem latchInputs_wdtps : (s.latchInputs).wdtps = s.wdtps + (inputsNow s).wdtpsTicks := rfl
@[simp] theorem latchInputs_sleeping : (s.latchInputs).sleeping = s.sleeping := rfl
@[simp] theorem latchInputs_mem : (s.latchInputs).mem = s.mem := rfl
@[simp] theorem latchInputs_irq : (s.latchInputs).irq = (inputsNow s).irq.getD s.irq := rfl
@[simp] theorem latchInputs_device : (s.latchInputs).device = (inputsNow s).device.getD s.device := rfl
@[simp] theorem latchInputs_inputs : (s.latchInputs).inputs = s.inputs.tail := rfl
@[simp] theorem latchInputs_draws : (s.latchInputs).draws = s.draws := rfl
@[simp] theorem latchInputs_prog : (s.latchInputs).prog = s.prog := rfl
@[simp] theorem latchInputs_par : (s.latchInputs).par = s.par := rfl

end

/-! The conditional skip changes pc alone. -/

section
variable (s : State) (v : Bool)

@[simp] theorem skipWhen_w : (s.skipWhen v).w = s.w := by cases v <;> rfl
@[simp] theorem skipWhen_pc : (s.skipWhen v).pc = if v then s.pc + 2 else s.pc + 1 := by cases v <;> rfl
@[simp] theorem skipWhen_c : (s.skipWhen v).c = s.c := by cases v <;> rfl
@[simp] theorem skipWhen_dc : (s.skipWhen v).dc = s.dc := by cases v <;> rfl
@[simp] theorem skipWhen_z : (s.skipWhen v).z = s.z := by cases v <;> rfl
@[simp] theorem skipWhen_toFlag : (s.skipWhen v).toFlag = s.toFlag := by cases v <;> rfl
@[simp] theorem skipWhen_pdFlag : (s.skipWhen v).pdFlag = s.pdFlag := by cases v <;> rfl
@[simp] theorem skipWhen_gie : (s.skipWhen v).gie = s.gie := by cases v <;> rfl
@[simp] theorem skipWhen_pclatch : (s.skipWhen v).pclatch = s.pclatch := by cases v <;> rfl
@[simp] theorem skipWhen_stack : (s.skipWhen v).stack = s.stack := by cases v <;> rfl
@[simp] theorem skipWhen_wdt : (s.skipWhen v).wdt = s.wdt := by cases v <;> rfl
@[simp] theorem skipWhen_wdtps : (s.skipWhen v).wdtps = s.wdtps := by cases v <;> rfl
@[simp] theorem skipWhen_sleeping : (s.skipWhen v).sleeping = s.sleeping := by cases v <;> rfl
@[simp] theorem skipWhen_mem : (s.skipWhen v).mem = s.mem := by cases v <;> rfl
@[simp] theorem skipWhen_irq : (s.skipWhen v).irq = s.irq := by cases v <;> rfl
@[simp] theorem skipWhen_device : (s.skipWhen v).device = s.device := by cases v <;> rfl
@[simp] theorem skipWhen_inputs : (s.skipWhen v).inputs = s.inputs := by cases v <;> rfl
@[simp] theorem skipWhen_draws : (s.skipWhen v).draws = s.draws := by cases v <;> rfl
@[simp] theorem skipWhen_prog : (s.skipWhen v).prog = s.prog := by cases v <;> rfl
@[simp] theorem skipWhen_par : (s.skipWhen v).par = s.par := by cases v <;> rfl

end

/-! The reset event. -/

section
variable (s : State) (v p : Bool)

@[simp] theorem resetEvent_w : (resetEvent v p s).w = Config.freeByte s.draws 128 := rfl
@[simp] theorem resetEvent_pc : (resetEvent v p s).pc = s.par.resetVector := rfl
@[simp] theorem resetEvent_c : (resetEvent v p s).c = Config.freeBit s.draws 0 := rfl
@[simp] theorem resetEvent_dc : (resetEvent v p s).dc = Config.freeBit s.draws 1 := rfl
@[simp] theorem resetEvent_z : (resetEvent v p s).z = Config.freeBit s.draws 2 := rfl
@[simp] theorem resetEvent_toFlag : (resetEvent v p s).toFlag = v := rfl
@[simp] theorem resetEvent_pdFlag : (resetEvent v p s).pdFlag = p := rfl
@[simp] theorem resetEvent_gie : (resetEvent v p s).gie = false := rfl
@[simp] theorem resetEvent_pclatch : (resetEvent v p s).pclatch = s.par.resetPclatch := rfl
@[simp] theorem resetEvent_stack : (resetEvent v p s).stack = [] := rfl
@[simp] theorem resetEvent_wdt : (resetEvent v p s).wdt = 0 := rfl
@[simp] theorem resetEvent_wdtps : (resetEvent v p s).wdtps = 0 := rfl
@[simp] theorem resetEvent_sleeping : (resetEvent v p s).sleeping = false := rfl
@[simp] theorem resetEvent_mem : (resetEvent v p s).mem = unknownCells s.draws := rfl
@[simp] theorem resetEvent_irq : (resetEvent v p s).irq = s.par.resetIrq := rfl
@[simp] theorem resetEvent_device : (resetEvent v p s).device = Config.deviceAfterReset s.device := rfl
@[simp] theorem resetEvent_inputs : (resetEvent v p s).inputs = s.inputs := rfl
@[simp] theorem resetEvent_draws : (resetEvent v p s).draws = s.draws + 1 := rfl
@[simp] theorem resetEvent_prog : (resetEvent v p s).prog = s.prog := rfl
@[simp] theorem resetEvent_par : (resetEvent v p s).par = s.par := rfl

end

/-! What a general special register gives, taken over. -/

section
variable (n s : State)

@[simp] theorem adopt_w : (State.adopt n s).w = n.w := rfl
@[simp] theorem adopt_pc : (State.adopt n s).pc = n.pc := rfl
@[simp] theorem adopt_c : (State.adopt n s).c = n.c := rfl
@[simp] theorem adopt_dc : (State.adopt n s).dc = n.dc := rfl
@[simp] theorem adopt_z : (State.adopt n s).z = n.z := rfl
@[simp] theorem adopt_toFlag : (State.adopt n s).toFlag = n.toFlag := rfl
@[simp] theorem adopt_pdFlag : (State.adopt n s).pdFlag = n.pdFlag := rfl
@[simp] theorem adopt_gie : (State.adopt n s).gie = n.gie := rfl
@[simp] theorem adopt_pclatch : (State.adopt n s).pclatch = n.pclatch := rfl
@[simp] theorem adopt_stack : (State.adopt n s).stack = n.stack.take s.par.stackDepth := rfl
@[simp] theorem adopt_wdt : (State.adopt n s).wdt = n.wdt := rfl
@[simp] theorem adopt_wdtps : (State.adopt n s).wdtps = n.wdtps := rfl
@[simp] theorem adopt_sleeping : (State.adopt n s).sleeping = n.sleeping := rfl
@[simp] theorem adopt_mem : (State.adopt n s).mem = cellsOf (memRead n.mem) := rfl
@[simp] theorem adopt_irq : (State.adopt n s).irq = n.irq := rfl
@[simp] theorem adopt_device : (State.adopt n s).device = n.device := rfl
@[simp] theorem adopt_inputs : (State.adopt n s).inputs = s.inputs := rfl
@[simp] theorem adopt_draws : (State.adopt n s).draws = s.draws := rfl
@[simp] theorem adopt_prog : (State.adopt n s).prog = s.prog := rfl
@[simp] theorem adopt_par : (State.adopt n s).par = s.par := rfl

end

end Sys2Proof.Machine
end

