-- ==== Sys2Proof/Laws/Ops.lean ====
section
/-! SUPPORT. One lemma per shared operation that says once everything it can do, for the provers to cite. -/

namespace Sys2Proof.Machine

open Sys2Proof

variable {s t u : State} {f : Nat} {v a : Byte} {k : State → Result}

/-! What an f value designates -/

theorem fileKind_lt (h : fileKind f s.par ≠ .unmapped) : f < 128 := by
  unfold fileKind at h
  by_contra hf
  simp [hf] at h

/-! FileRead -/

theorem readFile_plain (h : fileKind f s.par = .plain) : readFile f s = some (memRead s.mem f, s) := by
  simp [readFile, h]

theorem readFile_layout {bits : List SfrBit} (h : fileKind f s.par = .special (.layout bits)) :
    readFile f s = some (layoutRead f s 0 bits, s) := by
  simp [readFile, h]

theorem readFile_device (h : fileKind f s.par = .special .device) :
    readFile f s = some (Config.deviceByte f s.device, { s with device := Config.deviceAfterRead f s.device }) := by
  simp [readFile, h]

theorem readFile_general {id : Nat} (h : fileKind f s.par = .special (.general id)) :
    readFile f s = some ((Config.specialRead id s).1, (Config.specialRead id s).2.adopt s) := by
  simp [readFile, h]

theorem readFile_unmapped (h : fileKind f s.par = .unmapped) : readFile f s = none := by
  simp [readFile, h]

/-- A read changes at most the devices' state, but for a general special register (20_memory.md R63). -/
theorem readFile_frame (hg : ∀ id, fileKind f s.par ≠ .special (.general id)) (h : readFile f s = some (a, t)) :
    t = { s with device := t.device } := by
  unfold readFile at h
  split at h <;> simp only [Option.some.injEq, Prod.mk.injEq, reduceCtorEq] at h
  · obtain ⟨-, rfl⟩ := h; rfl
  · obtain ⟨-, rfl⟩ := h; rfl
  · obtain ⟨-, rfl⟩ := h; rfl
  · exact absurd ‹_› (hg _)

/-- What every access keeps, a read or a write, whatever the register: PROG, the parameters, the schedule, the draws, and the form
of the f registers and of the stack. -/
def Keeps (s t : State) : Prop :=
  t.inputs = s.inputs ∧ t.draws = s.draws ∧ t.prog = s.prog ∧ t.par = s.par ∧ (s.mem.wf = true → t.mem.wf = true) ∧
  (s.stack.length ≤ s.par.stackDepth → t.stack.length ≤ s.par.stackDepth)

theorem Keeps.refl (s : State) : Keeps s s := ⟨rfl, rfl, rfl, rfl, id, id⟩

theorem Keeps.trans (h : Keeps s t) (g : Keeps t u) : Keeps s u := by
  obtain ⟨h1, h2, h3, h4, h5, h6⟩ := h
  obtain ⟨g1, g2, g3, g4, g5, g6⟩ := g
  rw [h4] at g4 g6
  exact ⟨g1.trans h1, g2.trans h2, g3.trans h3, g4, fun h => g5 (h5 h), fun h => g6 (h6 h)⟩

theorem adopt_keeps (n s : State) : Keeps s (n.adopt s) :=
  ⟨rfl, rfl, rfl, rfl, fun _ => cellsOf_wf _, fun _ => by simp⟩

theorem readFile_keeps (h : readFile f s = some (a, t)) : Keeps s t := by
  unfold readFile at h
  split at h <;> simp only [Option.some.injEq, Prod.mk.injEq, reduceCtorEq] at h <;> obtain ⟨-, rfl⟩ := h
  · exact Keeps.refl _
  · exact Keeps.refl _
  · exact ⟨rfl, rfl, rfl, rfl, id, id⟩
  · exact adopt_keeps _ _

/-! The interrupt sources -/

theorem sourceAt_putSourceAt (l : List Source) (n m : Nat) (x : Source) :
    sourceAt (putSourceAt l n x) m = if n = m then x else sourceAt l m := by
  induction n generalizing l m with
  | zero => cases l <;> cases m <;> simp [putSourceAt, sourceAt]
  | succ n ih => cases l <;> cases m <;> simp [putSourceAt, sourceAt, ih]

/-- A source put is the source read back, and every other source is as before. -/
theorem irqGet_irqPut (p q : SourceName) (x : Source) (i : Irq) :
    irqGet q (irqPut p x i) = if p = q then x else irqGet q i := by
  cases p <;> cases q <;> simp [irqGet, irqPut, sourceAt_putSourceAt]

/-! The bits of a special register -/

/-- What a bit write leaves alone, whatever the bit. -/
theorem bitWrite_frame (f i : Nat) (src : BitSource) (v : Bool) (s : State) :
    (bitWrite f i src v s).w = s.w ∧ (bitWrite f i src v s).pc = s.pc ∧ (bitWrite f i src v s).stack = s.stack ∧
    (bitWrite f i src v s).wdt = s.wdt ∧ (bitWrite f i src v s).wdtps = s.wdtps ∧
    (bitWrite f i src v s).sleeping = s.sleeping ∧ (bitWrite f i src v s).device = s.device ∧
    (bitWrite f i src v s).inputs = s.inputs ∧ (bitWrite f i src v s).draws = s.draws ∧
    (bitWrite f i src v s).prog = s.prog ∧ (bitWrite f i src v s).par = s.par := by
  cases src <;> simp [bitWrite]

theorem bitWrite_mem_wf (hf : f < 128) (hm : s.mem.wf = true) (i : Nat) (src : BitSource) (v : Bool) :
    (bitWrite f i src v s).mem.wf = true := by
  cases src <;> first | exact hm | exact memWrite_wf hm hf _

/-- What a data write to a special register leaves alone, whatever its layout. -/
theorem layoutWrite_frame (f : Nat) (v : Byte) (i : Nat) (bits : List SfrBit) (s : State) :
    (layoutWrite f v i bits s).w = s.w ∧ (layoutWrite f v i bits s).pc = s.pc ∧
    (layoutWrite f v i bits s).stack = s.stack ∧ (layoutWrite f v i bits s).wdt = s.wdt ∧
    (layoutWrite f v i bits s).wdtps = s.wdtps ∧ (layoutWrite f v i bits s).sleeping = s.sleeping ∧
    (layoutWrite f v i bits s).device = s.device ∧ (layoutWrite f v i bits s).inputs = s.inputs ∧
    (layoutWrite f v i bits s).draws = s.draws ∧ (layoutWrite f v i bits s).prog = s.prog ∧
    (layoutWrite f v i bits s).par = s.par := by
  induction bits generalizing i s with
  | nil => simp [layoutWrite]
  | cons b bs ih =>
    unfold layoutWrite
    have hi := ih (i + 1) (if b.writable then bitWrite f i b.source (v.getLsbD i) s else s)
    have hb := bitWrite_frame f i b.source (v.getLsbD i) s
    cases b.writable <;> simp_all

theorem layoutWrite_mem_wf (hf : f < 128) (hm : s.mem.wf = true) (v : Byte) (i : Nat) (bits : List SfrBit) :
    (layoutWrite f v i bits s).mem.wf = true := by
  induction bits generalizing i s with
  | nil => exact hm
  | cons b bs ih =>
    unfold layoutWrite
    apply ih
    cases b.writable
    · exact hm
    · exact bitWrite_mem_wf hf hm i b.source _

/-! FileWrite -/

theorem writeFile_plain (h : fileKind f s.par = .plain) :
    writeFile f v s = some { s with mem := memWrite s.mem f v } := by
  simp [writeFile, h]

theorem writeFile_layout {bits : List SfrBit} (h : fileKind f s.par = .special (.layout bits)) :
    writeFile f v s = some (layoutWrite f v 0 bits s) := by
  simp [writeFile, h]

theorem writeFile_device (h : fileKind f s.par = .special .device) :
    writeFile f v s = some { s with device := Config.deviceAfterWrite f v s.device } := by
  simp [writeFile, h]

theorem writeFile_general {id : Nat} (h : fileKind f s.par = .special (.general id)) :
    writeFile f v s = some ((Config.specialWrite id v s).adopt s) := by
  simp [writeFile, h]

theorem writeFile_unmapped (h : fileKind f s.par = .unmapped) : writeFile f v s = none := by
  simp [writeFile, h]

/-- What a write leaves alone, but for a general special register (20_memory.md R64). -/
theorem writeFile_frame (hg : ∀ id, fileKind f s.par ≠ .special (.general id)) (h : writeFile f v s = some t) :
    t.w = s.w ∧ t.pc = s.pc ∧ t.stack = s.stack ∧ t.wdt = s.wdt ∧ t.wdtps = s.wdtps ∧ t.sleeping = s.sleeping ∧
    t.inputs = s.inputs ∧ t.draws = s.draws ∧ t.prog = s.prog ∧ t.par = s.par := by
  unfold writeFile at h
  split at h <;> simp only [Option.some.injEq, reduceCtorEq] at h <;> subst h
  · simp
  · obtain ⟨h1, h2, h3, h4, h5, h6, -, h8, h9, h10, h11⟩ := layoutWrite_frame f v 0 _ s
    exact ⟨h1, h2, h3, h4, h5, h6, h8, h9, h10, h11⟩
  · simp
  · exact absurd ‹_› (hg _)

/-- A write keeps the canonical form of the f registers. -/
theorem writeFile_mem_wf (h : writeFile f v s = some t) (hm : s.mem.wf = true) : t.mem.wf = true := by
  have hf : f < 128 := fileKind_lt (s := s) (fun hk => by simp [writeFile_unmapped hk] at h)
  unfold writeFile at h
  split at h <;> simp only [Option.some.injEq, reduceCtorEq] at h <;> subst h
  · exact memWrite_wf hm hf v
  · exact layoutWrite_mem_wf hf hm v 0 _
  · exact hm
  · exact cellsOf_wf _

theorem writeFile_keeps (h : writeFile f v s = some t) : Keeps s t := by
  by_cases hg : ∀ id, fileKind f s.par ≠ .special (.general id)
  · obtain ⟨-, -, h3, -, -, -, h7, h8, h9, h10⟩ := writeFile_frame hg h
    exact ⟨h7, h8, h9, h10, writeFile_mem_wf h, fun hs => h3 ▸ hs⟩
  · push Not at hg
    obtain ⟨id, hk⟩ := hg
    rw [writeFile_general hk, Option.some.injEq] at h
    exact h ▸ adopt_keeps _ _

/-! The shapes of a meaning -/

/-- A meaning that reads `f` and answers next has read it, and goes on with what was read. -/
theorem withFile_next {k : Byte → State → Result} (h : withFile f s k = .next u) :
    ∃ a t, readFile f s = some (a, t) ∧ k a t = .next u := by
  unfold withFile at h
  split at h
  · exact ⟨_, _, ‹_›, h⟩
  · cases h

theorem storeFile_next (h : storeFile f v s k = .next u) : ∃ t, writeFile f v s = some t ∧ k t = .next u := by
  unfold storeFile at h
  split at h
  · exact ⟨_, ‹_›, h⟩
  · cases h

/-- The destination is W, or it is `f` and the write happened (40_byte_oriented.md R120). -/
theorem storeDest_next {d : Dest} (h : storeDest d f v s k = .next u) :
    (d = .w ∧ k (s.setW v) = .next u) ∨ (d = .f ∧ ∃ t, writeFile f v s = some t ∧ k t = .next u) := by
  cases d with
  | w => exact .inl ⟨rfl, h⟩
  | f => exact .inr ⟨rfl, storeFile_next h⟩

/-- No meaning that reads or writes `f` faults unless what follows does. -/
theorem withFile_not_fault {k : Byte → State → Result} {r : Fault} (hk : ∀ a t, k a t ≠ .fault r) :
    withFile f s k ≠ .fault r := by
  unfold withFile
  split
  · exact hk _ _
  · simp

theorem storeFile_not_fault {r : Fault} (hk : ∀ t, k t ≠ .fault r) : storeFile f v s k ≠ .fault r := by
  unfold storeFile
  split
  · exact hk _
  · simp

theorem storeDest_not_fault {d : Dest} {r : Fault} (hk : ∀ t, k t ≠ .fault r) : storeDest d f v s k ≠ .fault r := by
  cases d with
  | w => exact hk _
  | f => exact storeFile_not_fault hk

/-! The stack -/

theorem push_next {b : PAddr} (h : push b s = some t) :
    s.stack.length < s.par.stackDepth ∧ t = s.setStack (s.stack ++ [b]) := by
  unfold push at h
  split at h
  · exact ⟨‹_›, (Option.some.inj h).symm⟩
  · cases h

theorem pop_next {b : PAddr} (h : pop s = some (b, t)) :
    s.stack = s.stack.dropLast ++ [b] ∧ t = s.setStack s.stack.dropLast := by
  unfold pop at h
  split at h
  · rename_i x hx
    simp only [Option.some.injEq, Prod.mk.injEq] at h
    obtain ⟨rfl, rfl⟩ := h
    exact ⟨(List.dropLast_append_getLast? _ hx).symm, rfl⟩
  · cases h

theorem pop_append (l : List PAddr) (b : PAddr) (h : s.stack = l ++ [b]) : pop s = some (b, s.setStack l) := by
  simp [pop, h]

/-- CALL and interrupt entry, when they complete. -/
theorem pushAndJump_next {b dest : PAddr} (h : pushAndJump b dest s = .next t) :
    s.stack.length < s.par.stackDepth ∧ t = (s.setStack (s.stack ++ [b])).jump dest := by
  unfold pushAndJump at h
  split at h
  · rename_i hp
    obtain ⟨h1, rfl⟩ := push_next hp
    exact ⟨h1, (Host.Outcome.next.inj h).symm⟩
  · cases h

/-- The returns, when they complete. -/
theorem popToPc_next (h : popToPc s = .next t) :
    ∃ b, s.stack = s.stack.dropLast ++ [b] ∧ t = (s.setStack s.stack.dropLast).jump b := by
  unfold popToPc at h
  split at h
  · rename_i hp
    obtain ⟨h1, rfl⟩ := pop_next hp
    exact ⟨_, h1, (Host.Outcome.next.inj h).symm⟩
  · cases h

/-- Interrupt entry, when it completes: everything it does (60_exceptions.md R247, R248). -/
theorem takeInterrupt_next (h : takeInterrupt s = .next t) :
    s.stack.length < s.par.stackDepth ∧
      t = { s with gie := false, stack := s.stack ++ [s.pc], pc := s.par.intVector } := by
  obtain ⟨h1, rfl⟩ := pushAndJump_next h
  exact ⟨h1, rfl⟩

/-- The return from interrupt, when it completes (44_control_transfer.md R202). -/
theorem returnFromInterrupt_next (h : returnFromInterrupt s = .next t) :
    ∃ b, s.stack = s.stack.dropLast ++ [b] ∧ t = { s with gie := true, stack := s.stack.dropLast, pc := b } := by
  obtain ⟨b, h1, rfl⟩ := popToPc_next h
  exact ⟨b, h1, rfl⟩

/-! The event of a boundary -/

/-- When an instruction is executed: nothing else is to happen (60_exceptions.md R251). -/
theorem chooseEvent_execute {inp : Inputs} (h : chooseEvent inp s = .execute) :
    inp.mclr = false ∧ (inp.wdtTimeout && s.par.wdtEnabled) = false ∧ s.sleeping = false ∧
      (inp.accept && s.gie && irqPending s.irq) = false := by
  unfold chooseEvent at h
  repeat' split at h
  all_goals simp_all

/-- When an interrupt is taken (60_exceptions.md R246). -/
theorem chooseEvent_interrupt {inp : Inputs} (h : chooseEvent inp s = .interrupt) :
    s.sleeping = false ∧ s.gie = true ∧ irqPending s.irq = true ∧ inp.accept = true := by
  unfold chooseEvent at h
  repeat' split at h
  all_goals simp_all

end Sys2Proof.Machine
end

