-- ==== Sys2Proof/Laws/PerInstr.lean ====
section
/-! SUPPORT. Laws stated instruction by instruction: the canonical word of every instruction lies in its own row of the opcode
map (30_encoding.md R100, R112), whatever its operands. -/

namespace Sys2Proof.Laws

open Sys2Proof

/-- The mnemonic of the row an instruction belongs to, as spec/opcode_table.json spells it. -/
def rowMnemonic : Instr → String
  | .addlw _ => "ADDLW"
  | .addwf _ _ => "ADDWF"
  | .andlw _ => "ANDLW"
  | .andwf _ _ => "ANDWF"
  | .bcf _ _ => "BCF"
  | .bsf _ _ => "BSF"
  | .btfsc _ _ => "BTFSC"
  | .btfss _ _ => "BTFSS"
  | .call _ => "CALL"
  | .clrf _ => "CLRF"
  | .clrw => "CLRW"
  | .clrwdt => "CLRWDT"
  | .comf _ _ => "COMF"
  | .decf _ _ => "DECF"
  | .decfsz _ _ => "DECFSZ"
  | .goto _ => "GOTO"
  | .incf _ _ => "INCF"
  | .incfsz _ _ => "INCFSZ"
  | .iorlw _ => "IORLW"
  | .iorwf _ _ => "IORWF"
  | .movlw _ => "MOVLW"
  | .movf _ _ => "MOVF"
  | .movwf _ => "MOVWF"
  | .nop => "NOP"
  | .retfie => "RETFIE"
  | .retlw _ => "RETLW"
  | .ret => "RETURN"
  | .rlf _ _ => "RLF"
  | .rrf _ _ => "RRF"
  | .sleep => "SLEEP"
  | .sublw _ => "SUBLW"
  | .subwf _ _ => "SUBWF"
  | .swapf _ _ => "SWAPF"
  | .xorlw _ => "XORLW"
  | .xorwf _ _ => "XORWF"

/-- Some row of the map has the instruction's mnemonic and covers its canonical word. -/
def EncodeRow.Statement (i : Instr) : Prop :=
  ∃ r ∈ opcodeRows, r.mnemonic = rowMnemonic i ∧ r.covers (encode i) = true

/-- Masking the low field away leaves the masked fixed bits. -/
theorem fixed_bits_of_append {m n : Nat} (op mask : BitVec m) (x : BitVec n) :
    (op ++ x) &&& (mask ++ 0#n) = (op &&& mask) ++ 0#n := by
  ext i hi
  simp only [BitVec.getElem_and, BitVec.getElem_append]
  split <;> simp

/-- A row whose mask has no bit in the low field covers a word made of its fixed bits and any field. -/
theorem covers_of_append {m n : Nat} (h : m + n = 14) {r : OpcodeRow} {w : InstrWord} (op mask : BitVec m) (x : BitVec n)
    (hw : w = (op ++ x).cast h) (hm : r.mask = (mask ++ 0#n).cast h) (hv : r.value = ((op &&& mask) ++ 0#n).cast h) :
    r.covers w = true := by
  subst hw
  simp only [OpcodeRow.covers, hm, hv, beq_iff_eq]
  rw [← fixed_bits_of_append op mask x]
  apply BitVec.eq_of_toNat_eq
  simp

/-- The row at position `n` settles the statement when it has the mnemonic and covers the word. -/
theorem encodeRow_of_position {i : Instr} {r : OpcodeRow} (n : Nat) (h : opcodeRows[n]? = some r)
    (hm : r.mnemonic = rowMnemonic i) (hc : r.covers (encode i) = true) : EncodeRow.Statement i :=
  ⟨r, List.mem_of_getElem? h, hm, hc⟩

theorem EncodeRow.addlw (k : Nat) : EncodeRow.Statement (.addlw k) :=
  encodeRow_of_position 34 rfl rfl
    (covers_of_append (m := 6) (n := 8) rfl 0b111110#6 62#6 (BitVec.ofNat 8 k) rfl rfl rfl)

theorem EncodeRow.addwf (f : Nat) (d : Dest) : EncodeRow.Statement (.addwf f d) :=
  encodeRow_of_position 13 rfl rfl
    (covers_of_append (m := 7) (n := 7) rfl (0b000111#6 ++ dBit d) (63#6 ++ 0#1) (BitVec.ofNat 7 f) rfl rfl
      (by cases d <;> rfl))

theorem EncodeRow.andlw (k : Nat) : EncodeRow.Statement (.andlw k) :=
  encodeRow_of_position 31 rfl rfl
    (covers_of_append (m := 6) (n := 8) rfl 0b111001#6 63#6 (BitVec.ofNat 8 k) rfl rfl rfl)

theorem EncodeRow.andwf (f : Nat) (d : Dest) : EncodeRow.Statement (.andwf f d) :=
  encodeRow_of_position 11 rfl rfl
    (covers_of_append (m := 7) (n := 7) rfl (0b000101#6 ++ dBit d) (63#6 ++ 0#1) (BitVec.ofNat 7 f) rfl rfl
      (by cases d <;> rfl))

theorem EncodeRow.bcf (f b : Nat) : EncodeRow.Statement (.bcf f b) :=
  encodeRow_of_position 22 rfl rfl
    (covers_of_append (m := 7) (n := 7) rfl (0b0100#4 ++ BitVec.ofNat 3 b) (15#4 ++ 0#3) (BitVec.ofNat 7 f) rfl rfl
      (by rw [fixed_bits_of_append]; rfl))

theorem EncodeRow.bsf (f b : Nat) : EncodeRow.Statement (.bsf f b) :=
  encodeRow_of_position 23 rfl rfl
    (covers_of_append (m := 7) (n := 7) rfl (0b0101#4 ++ BitVec.ofNat 3 b) (15#4 ++ 0#3) (BitVec.ofNat 7 f) rfl rfl
      (by rw [fixed_bits_of_append]; rfl))

theorem EncodeRow.btfsc (f b : Nat) : EncodeRow.Statement (.btfsc f b) :=
  encodeRow_of_position 24 rfl rfl
    (covers_of_append (m := 7) (n := 7) rfl (0b0110#4 ++ BitVec.ofNat 3 b) (15#4 ++ 0#3) (BitVec.ofNat 7 f) rfl rfl
      (by rw [fixed_bits_of_append]; rfl))

theorem EncodeRow.btfss (f b : Nat) : EncodeRow.Statement (.btfss f b) :=
  encodeRow_of_position 25 rfl rfl
    (covers_of_append (m := 7) (n := 7) rfl (0b0111#4 ++ BitVec.ofNat 3 b) (15#4 ++ 0#3) (BitVec.ofNat 7 f) rfl rfl
      (by rw [fixed_bits_of_append]; rfl))

theorem EncodeRow.call (k : Nat) : EncodeRow.Statement (.call k) :=
  encodeRow_of_position 26 rfl rfl
    (covers_of_append (m := 3) (n := 11) rfl 0b100#3 7#3 (BitVec.ofNat 11 k) rfl rfl rfl)

theorem EncodeRow.clrf (f : Nat) : EncodeRow.Statement (.clrf f) :=
  encodeRow_of_position 7 rfl rfl
    (covers_of_append (m := 7) (n := 7) rfl 0b0000011#7 127#7 (BitVec.ofNat 7 f) rfl rfl rfl)

theorem EncodeRow.clrw : EncodeRow.Statement .clrw := encodeRow_of_position 6 rfl rfl rfl

theorem EncodeRow.clrwdt : EncodeRow.Statement .clrwdt := encodeRow_of_position 4 rfl rfl rfl

theorem EncodeRow.comf (f : Nat) (d : Dest) : EncodeRow.Statement (.comf f d) :=
  encodeRow_of_position 15 rfl rfl
    (covers_of_append (m := 7) (n := 7) rfl (0b001001#6 ++ dBit d) (63#6 ++ 0#1) (BitVec.ofNat 7 f) rfl rfl
      (by cases d <;> rfl))

theorem EncodeRow.decf (f : Nat) (d : Dest) : EncodeRow.Statement (.decf f d) :=
  encodeRow_of_position 9 rfl rfl
    (covers_of_append (m := 7) (n := 7) rfl (0b000011#6 ++ dBit d) (63#6 ++ 0#1) (BitVec.ofNat 7 f) rfl rfl
      (by cases d <;> rfl))

theorem EncodeRow.decfsz (f : Nat) (d : Dest) : EncodeRow.Statement (.decfsz f d) :=
  encodeRow_of_position 17 rfl rfl
    (covers_of_append (m := 7) (n := 7) rfl (0b001011#6 ++ dBit d) (63#6 ++ 0#1) (BitVec.ofNat 7 f) rfl rfl
      (by cases d <;> rfl))

theorem EncodeRow.goto (k : Nat) : EncodeRow.Statement (.goto k) :=
  encodeRow_of_position 27 rfl rfl
    (covers_of_append (m := 3) (n := 11) rfl 0b101#3 7#3 (BitVec.ofNat 11 k) rfl rfl rfl)

theorem EncodeRow.incf (f : Nat) (d : Dest) : EncodeRow.Statement (.incf f d) :=
  encodeRow_of_position 16 rfl rfl
    (covers_of_append (m := 7) (n := 7) rfl (0b001010#6 ++ dBit d) (63#6 ++ 0#1) (BitVec.ofNat 7 f) rfl rfl
      (by cases d <;> rfl))

theorem EncodeRow.incfsz (f : Nat) (d : Dest) : EncodeRow.Statement (.incfsz f d) :=
  encodeRow_of_position 21 rfl rfl
    (covers_of_append (m := 7) (n := 7) rfl (0b001111#6 ++ dBit d) (63#6 ++ 0#1) (BitVec.ofNat 7 f) rfl rfl
      (by cases d <;> rfl))

theorem EncodeRow.iorlw (k : Nat) : EncodeRow.Statement (.iorlw k) :=
  encodeRow_of_position 30 rfl rfl
    (covers_of_append (m := 6) (n := 8) rfl 0b111000#6 63#6 (BitVec.ofNat 8 k) rfl rfl rfl)

theorem EncodeRow.iorwf (f : Nat) (d : Dest) : EncodeRow.Statement (.iorwf f d) :=
  encodeRow_of_position 10 rfl rfl
    (covers_of_append (m := 7) (n := 7) rfl (0b000100#6 ++ dBit d) (63#6 ++ 0#1) (BitVec.ofNat 7 f) rfl rfl
      (by cases d <;> rfl))

theorem EncodeRow.movlw (k : Nat) : EncodeRow.Statement (.movlw k) :=
  encodeRow_of_position 28 rfl rfl
    (covers_of_append (m := 6) (n := 8) rfl 0b110000#6 60#6 (BitVec.ofNat 8 k) rfl rfl rfl)

theorem EncodeRow.movf (f : Nat) (d : Dest) : EncodeRow.Statement (.movf f d) :=
  encodeRow_of_position 14 rfl rfl
    (covers_of_append (m := 7) (n := 7) rfl (0b001000#6 ++ dBit d) (63#6 ++ 0#1) (BitVec.ofNat 7 f) rfl rfl
      (by cases d <;> rfl))

theorem EncodeRow.movwf (f : Nat) : EncodeRow.Statement (.movwf f) :=
  encodeRow_of_position 5 rfl rfl
    (covers_of_append (m := 7) (n := 7) rfl 0b0000001#7 127#7 (BitVec.ofNat 7 f) rfl rfl rfl)

theorem EncodeRow.nop : EncodeRow.Statement .nop := encodeRow_of_position 0 rfl rfl rfl

theorem EncodeRow.retfie : EncodeRow.Statement .retfie := encodeRow_of_position 2 rfl rfl rfl

theorem EncodeRow.retlw (k : Nat) : EncodeRow.Statement (.retlw k) :=
  encodeRow_of_position 29 rfl rfl
    (covers_of_append (m := 6) (n := 8) rfl 0b110100#6 60#6 (BitVec.ofNat 8 k) rfl rfl rfl)

theorem EncodeRow.ret : EncodeRow.Statement .ret := encodeRow_of_position 1 rfl rfl rfl

theorem EncodeRow.rlf (f : Nat) (d : Dest) : EncodeRow.Statement (.rlf f d) :=
  encodeRow_of_position 19 rfl rfl
    (covers_of_append (m := 7) (n := 7) rfl (0b001101#6 ++ dBit d) (63#6 ++ 0#1) (BitVec.ofNat 7 f) rfl rfl
      (by cases d <;> rfl))

theorem EncodeRow.rrf (f : Nat) (d : Dest) : EncodeRow.Statement (.rrf f d) :=
  encodeRow_of_position 18 rfl rfl
    (covers_of_append (m := 7) (n := 7) rfl (0b001100#6 ++ dBit d) (63#6 ++ 0#1) (BitVec.ofNat 7 f) rfl rfl
      (by cases d <;> rfl))

theorem EncodeRow.sleep : EncodeRow.Statement .sleep := encodeRow_of_position 3 rfl rfl rfl

theorem EncodeRow.sublw (k : Nat) : EncodeRow.Statement (.sublw k) :=
  encodeRow_of_position 33 rfl rfl
    (covers_of_append (m := 6) (n := 8) rfl 0b111100#6 62#6 (BitVec.ofNat 8 k) rfl rfl rfl)

theorem EncodeRow.subwf (f : Nat) (d : Dest) : EncodeRow.Statement (.subwf f d) :=
  encodeRow_of_position 8 rfl rfl
    (covers_of_append (m := 7) (n := 7) rfl (0b000010#6 ++ dBit d) (63#6 ++ 0#1) (BitVec.ofNat 7 f) rfl rfl
      (by cases d <;> rfl))

theorem EncodeRow.swapf (f : Nat) (d : Dest) : EncodeRow.Statement (.swapf f d) :=
  encodeRow_of_position 20 rfl rfl
    (covers_of_append (m := 7) (n := 7) rfl (0b001110#6 ++ dBit d) (63#6 ++ 0#1) (BitVec.ofNat 7 f) rfl rfl
      (by cases d <;> rfl))

theorem EncodeRow.xorlw (k : Nat) : EncodeRow.Statement (.xorlw k) :=
  encodeRow_of_position 32 rfl rfl
    (covers_of_append (m := 6) (n := 8) rfl 0b111010#6 63#6 (BitVec.ofNat 8 k) rfl rfl rfl)

theorem EncodeRow.xorwf (f : Nat) (d : Dest) : EncodeRow.Statement (.xorwf f d) :=
  encodeRow_of_position 12 rfl rfl
    (covers_of_append (m := 7) (n := 7) rfl (0b000110#6 ++ dBit d) (63#6 ++ 0#1) (BitVec.ofNat 7 f) rfl rfl
      (by cases d <;> rfl))

end Sys2Proof.Laws
end

