-- ==== Sys2Proof/Machine/Assembler.lean ====
section
/-! DEFINITION. The assembler syntax of 30_encoding.md section 6 (R108 to R111): one source line read as an instruction. No step
reads it. -/

namespace Sys2Proof

/-- What a line is cut into: words, and the commas between operands (30_encoding.md R108). -/
inductive AsmToken where
  | word (cs : List Char)
  | comma
  deriving DecidableEq, Repr

/-- Which operands follow a mnemonic (30_encoding.md R108). -/
inductive AsmForm where
  | none (i : Instr)
  | f (build : Nat → Instr)
  | fd (build : Nat → Dest → Instr)
  | fb (build : Nat → Nat → Instr)
  | k8 (build : Nat → Instr)
  | k11 (build : Nat → Instr)

/-- A symbol and what it stands for: a register or a program address (30_encoding.md R109). DESIGN CHOICE (log entry 24): one table
holds all symbols, whatever they stand for, and is given with the line, since D1 shows no way to define one. -/
abbrev SymbolTable := List (List Char × Nat)

/-- A finished word in front of the tokens that follow it. -/
def asmWord (acc : List Char) (rest : List AsmToken) : List AsmToken := if acc = [] then rest else .word acc.reverse :: rest

/-- Blanks and commas separate, a semicolon starts a comment (30_encoding.md R108, R109); `acc` is the word begun, last
character first. DESIGN CHOICE (log entry 24): the spec shows blanks after the mnemonic and after the comma and a label at the very
start of the line; here blanks may also stand before a comma, at the end, and in front of a line's first word, be it a label or the
mnemonic. -/
def asmTokens : List Char → List Char → List AsmToken
  | acc, [] => asmWord acc []
  | acc, c :: cs =>
    if c = ';' then asmWord acc []
    else if c = ' ' then asmWord acc (asmTokens [] cs)
    else if c = ',' then asmWord acc (.comma :: asmTokens [] cs)
    else asmTokens (c :: acc) cs

/-- The value of a hexadecimal digit, in capitals as the source writes them. -/
def hexDigit (c : Char) : Option Nat :=
  if '0' ≤ c ∧ c ≤ '9' then some (c.toNat - '0'.toNat)
  else if 'A' ≤ c ∧ c ≤ 'F' then some (c.toNat - 'A'.toNat + 10)
  else none

/-- Digits of a base, most significant first, from the value read so far. -/
def digitsValue (base : Nat) : Nat → List Char → Option Nat
  | acc, [] => some acc
  | acc, c :: cs =>
    match hexDigit c with
    | some v => if v < base then digitsValue base (acc * base + v) cs else none
    | none => none

/-- A number: hexadecimal with the suffix H and a decimal digit in front, else decimal (00_scope.md R9, 30_encoding.md R109). DESIGN
CHOICE (log entry 24): D1 shows decimal only for b and d and gives no radix rule, so an f or a k without the suffix is read as
decimal, and a bit number with it as hexadecimal. -/
def asmNumber (cs : List Char) : Option Nat :=
  match cs with
  | [] => none
  | c :: _ =>
    if '0' ≤ c ∧ c ≤ '9' then
      if cs.getLast? = some 'H' then digitsValue 16 0 cs.dropLast else digitsValue 10 0 cs
    else none

/-- A register or a literal: a symbol's value, else a number (30_encoding.md R109). DESIGN CHOICE (log entry 24): the spec shows a
symbol only for a register, and a label for a program address; here a symbol may stand for the literal k of format K8 too. -/
def asmValue (syms : SymbolTable) (cs : List Char) : Option Nat :=
  match syms.lookup cs with
  | some v => some v
  | none => asmNumber cs

/-- The destination: 0, 1, or F for 1 (30_encoding.md R109). DESIGN CHOICE (log entry 24): D1 writes F at INCFSZ alone; here every
instruction of format FD takes it. -/
def asmDest (cs : List Char) : Option Dest :=
  if cs = ['0'] then some .w
  else if cs = ['1'] then some .f
  else if cs = ['F'] then some .f
  else none

/-- A program address: of a label the low 11 bits go into k (30_encoding.md R109), a number is k itself. DESIGN CHOICE (log entry
24): any symbol of the table is taken as a label here. -/
def asmAddress (syms : SymbolTable) (cs : List Char) : Option Nat :=
  match syms.lookup cs with
  | some v => some (v % 2048)
  | none => asmNumber cs

/-- The operands of each mnemonic, the register instructions (30_encoding.md R108). -/
def mnemonicRegister (m : List Char) : Option AsmForm :=
  if m = "ADDWF".toList then some (.fd .addwf)
  else if m = "ANDWF".toList then some (.fd .andwf)
  else if m = "BCF".toList then some (.fb .bcf)
  else if m = "BSF".toList then some (.fb .bsf)
  else if m = "BTFSC".toList then some (.fb .btfsc)
  else if m = "BTFSS".toList then some (.fb .btfss)
  else if m = "CLRF".toList then some (.f .clrf)
  else if m = "COMF".toList then some (.fd .comf)
  else if m = "DECF".toList then some (.fd .decf)
  else if m = "DECFSZ".toList then some (.fd .decfsz)
  else if m = "INCF".toList then some (.fd .incf)
  else if m = "INCFSZ".toList then some (.fd .incfsz)
  else if m = "IORWF".toList then some (.fd .iorwf)
  else if m = "MOVF".toList then some (.fd .movf)
  else if m = "MOVWF".toList then some (.f .movwf)
  else if m = "RLF".toList then some (.fd .rlf)
  else if m = "RRF".toList then some (.fd .rrf)
  else if m = "SUBWF".toList then some (.fd .subwf)
  else if m = "SWAPF".toList then some (.fd .swapf)
  else if m = "XORWF".toList then some (.fd .xorwf)
  else none

/-- The operands of each mnemonic, the others; IORWL is D1's spelling of IORLW (30_encoding.md R108, R111). -/
def mnemonicOther (m : List Char) : Option AsmForm :=
  if m = "ADDLW".toList then some (.k8 .addlw)
  else if m = "ANDLW".toList then some (.k8 .andlw)
  else if m = "CALL".toList then some (.k11 .call)
  else if m = "CLRW".toList then some (.none .clrw)
  else if m = "CLRWDT".toList then some (.none .clrwdt)
  else if m = "GOTO".toList then some (.k11 .goto)
  else if m = "IORLW".toList ∨ m = "IORWL".toList then some (.k8 .iorlw)
  else if m = "MOVLW".toList then some (.k8 .movlw)
  else if m = "NOP".toList then some (.none .nop)
  else if m = "RETFIE".toList then some (.none .retfie)
  else if m = "RETLW".toList then some (.k8 .retlw)
  else if m = "RETURN".toList then some (.none .ret)
  else if m = "SLEEP".toList then some (.none .sleep)
  else if m = "SUBLW".toList then some (.k8 .sublw)
  else if m = "XORLW".toList then some (.k8 .xorlw)
  else none

/-- The form of a mnemonic: the 35 and the alias, no pseudo-instruction (30_encoding.md R110, R111). -/
def mnemonicForm (m : List Char) : Option AsmForm :=
  match mnemonicRegister m with
  | some x => some x
  | none => mnemonicOther m

/-- The instruction a form and its operands make, before the ranges are checked (30_encoding.md R108, R109). The literal of a K8
instruction is read as a register is, a symbol included: DESIGN CHOICE (log entry 24). -/
def asmOperands (syms : SymbolTable) (x : AsmForm) (ts : List AsmToken) : Option Instr :=
  match x, ts with
  | .none i, [] => some i
  | .f b, [.word a] => (asmValue syms a).map b
  | .k8 b, [.word a] => (asmValue syms a).map b
  | .k11 b, [.word a] => (asmAddress syms a).map b
  | .fd b, [.word a, .comma, .word d] => (asmValue syms a).bind fun v => (asmDest d).map (b v)
  | .fb b, [.word a, .comma, .word n] => (asmValue syms a).bind fun v => (asmNumber n).map (b v)
  | _, _ => none

/-- A line: a label or none, the mnemonic, the operands, each in its range (30_encoding.md R97, R108, R109). DESIGN CHOICE (log entry
24): any first word that is no mnemonic is taken as the label. -/
def assembleTokens (syms : SymbolTable) (ts : List AsmToken) : Option Instr :=
  let line := match ts with
    | .word m :: rest =>
      match mnemonicForm m with
      | some x => asmOperands syms x rest
      | none =>
        match rest with
        | .word n :: rest' => (mnemonicForm n).bind fun x => asmOperands syms x rest'
        | _ => none
    | _ => none
  line.bind fun i => if wellFormed i then some i else none

/-- One line of assembler source. -/
def assemble (syms : SymbolTable) (line : String) : Option Instr := assembleTokens syms (asmTokens [] line.toList)

end Sys2Proof
end

