-- ==== Sys2Proof/Tests/Slice0.lean ====
section
/-! SUPPORT. The model's own tests: ill-formed terms, words written out from the patterns of 30_encoding.md, one step on small
states with the results of 95_test_vectors.md, and, for every obligation with hypotheses, a witness that meets them. -/

namespace Sys2Proof.Tests

open Sys2Proof Sys2Proof.Machine

/-! ## Well-formedness: one ill-formed term for each check, and the last value each check admits -/

theorem test_field_f_refuses_128 :
    wellFormed (.movwf 128) = false ∧ wellFormed (.addwf 128 .w) = false ∧ wellFormed (.bcf 128 0) = false ∧
    wellFormed (.movwf 127) = true := by decide

theorem test_field_b_refuses_8 : wellFormed (.btfss 0x12 8) = false ∧ wellFormed (.btfss 0x12 7) = true := by decide

theorem test_field_k8_refuses_256 : wellFormed (.addlw 256) = false ∧ wellFormed (.retlw 255) = true := by decide

theorem test_field_k11_refuses_2048 : wellFormed (.call 2048) = false ∧ wellFormed (.goto 2047) = true := by decide

/-! ## Decoding: a word of every instruction, written bit by bit from its pattern (30_encoding.md section 2) -/

theorem test_decode_words_with_destination_a :
    decode 0b00011110100000 = .instr (.addwf 0x20 .f) ∧ decode 0b00010100010010 = .instr (.andwf 0x12 .w) ∧
    decode 0b00100110010010 = .instr (.comf 0x12 .f) ∧ decode 0b00001100010010 = .instr (.decf 0x12 .w) ∧
    decode 0b00101110010010 = .instr (.decfsz 0x12 .f) ∧ decode 0b00101000010010 = .instr (.incf 0x12 .w) ∧
    decode 0b00111110010010 = .instr (.incfsz 0x12 .f) := by decide

theorem test_decode_words_with_destination_b :
    decode 0b00010000010010 = .instr (.iorwf 0x12 .w) ∧ decode 0b00100010010010 = .instr (.movf 0x12 .f) ∧
    decode 0b00110100010010 = .instr (.rlf 0x12 .w) ∧ decode 0b00110010010010 = .instr (.rrf 0x12 .f) ∧
    decode 0b00001000010010 = .instr (.subwf 0x12 .w) ∧ decode 0b00111010010010 = .instr (.swapf 0x12 .f) ∧
    decode 0b00011000010010 = .instr (.xorwf 0x12 .w) := by decide

theorem test_decode_register_words :
    decode 0b00000011111111 = .instr (.movwf 0x7F) ∧ decode 0b00000110010010 = .instr (.clrf 0x12) ∧
    decode 0b00000100000011 = .instr .clrw ∧ decode 0b01000110010010 = .instr (.bcf 0x12 3) ∧
    decode 0b01011000010010 = .instr (.bsf 0x12 4) ∧ decode 0b01101010010010 = .instr (.btfsc 0x12 5) ∧
    decode 0b01111110010010 = .instr (.btfss 0x12 7) := by decide

theorem test_decode_literal_words :
    decode 0b11111000010001 = .instr (.addlw 0x11) ∧ decode 0b11100100001111 = .instr (.andlw 0x0F) ∧
    decode 0b11100000001111 = .instr (.iorlw 0x0F) ∧ decode 0b11000000010010 = .instr (.movlw 0x12) ∧
    decode 0b11110000000010 = .instr (.sublw 0x02) ∧ decode 0b11101000001111 = .instr (.xorlw 0x0F) ∧
    decode 0b11010000010010 = .instr (.retlw 0x12) := by decide

theorem test_decode_control_words :
    decode 0b10000100100011 = .instr (.call 0x123) ∧ decode 0b10100100100011 = .instr (.goto 0x123) ∧
    decode 0b00000000001000 = .instr .ret ∧ decode 0b00000000001001 = .instr .retfie ∧
    decode 0b00000001100011 = .instr .sleep ∧ decode 0b00000001100100 = .instr .clrwdt ∧
    decode 0b00000000000000 = .instr .nop := by decide

/-- 95_test_vectors.md V-DEC-1, V-DEC-19, V-DEC-20, V-DEC-25, V-DEC-27. -/
theorem test_decode_ignores_dont_care_bits :
    decode 0b00000001100000 = .instr .nop ∧ decode 0b11001100000000 = .instr (.movlw 0) ∧
    decode 0b11011100000000 = .instr (.retlw 0) ∧ decode 0b11110100000000 = .instr (.sublw 0) ∧
    decode 0b11111111111111 = .instr (.addlw 0xFF) := by decide

/-- 95_test_vectors.md V-DEC-2 to V-DEC-8, V-DEC-24, V-DEC-29. -/
theorem test_decode_refuses_unassigned_words :
    decode 0x0001 = .illegalEncoding ∧ decode 0x0007 = .illegalEncoding ∧ decode 0x000A = .illegalEncoding ∧
    decode 0x0062 = .illegalEncoding ∧ decode 0x0065 = .illegalEncoding ∧ decode 0x017F = .illegalEncoding ∧
    decode 0x3B55 = .illegalEncoding := by decide

/-! ## The assembler's lines (30_encoding.md R108, R109, R111) -/

theorem test_assemble_register_lines :
    assemble [] "ADDWF 20H,1" = some (.addwf 0x20 .f) ∧ assemble [] "BTFSC 12H, 5 ; bit 5" = some (.btfsc 0x12 5) ∧
    assemble [] "INCFSZ 12H,F" = some (.incfsz 0x12 .f) ∧
    assemble [("BF1".toList, 0x12)] "SUBWF BF1,0" = some (.subwf 0x12 .w) := by decide

theorem test_assemble_other_lines :
    assemble [] "IORWL 0FH" = some (.iorlw 0x0F) ∧ assemble [] "LP2 CALL 123H" = some (.call 0x123) ∧
    assemble [("LOOP".toList, 0x923)] "GOTO LOOP" = some (.goto 0x123) ∧ assemble [] "RETURN" = some .ret ∧
    assemble [] "ADDLW 100H" = none ∧ assemble [] "SKPZ" = none := by decide

/-- Log entry 24: forms the spec does not show and the model accepts. -/
theorem test_assemble_chosen_forms :
    assemble [] "  LP2  BTFSC 12H , 5" = some (.btfsc 0x12 5) ∧
    assemble [("TEN".toList, 10)] "MOVLW TEN" = some (.movlw 10) := by decide

/-! ## One step: the results of 95_test_vectors.md -/

/-- A state at address 0100 with W, register 12H and C given; DC and Z are 0. -/
def start (w x : Byte) (c : Bool) : State :=
  { State.reset with pc := 0x100, w := w, c := c, dc := false, z := false, mem := memWrite [] 0x12 x }

/-- The step that runs the word `n` in `s` goes on, to a state with the property. -/
def after (n : Nat) (s : State) (p : State → Bool) : Bool :=
  match step (s.withFetchWord 14 n) with
  | .next t => p t
  | _ => false

/-- Register 12H. -/
def r12 (t : State) : Byte := memRead t.mem 0x12

/-- C, DC, Z. -/
def cdcz (t : State) : Bool × Bool × Bool := (t.c, t.dc, t.z)

/-- S2, V-ADD-4. -/
theorem test_addlw :
    after 0x3E88 (start 0x78 0 false) (fun t => t.w == 0x00 && cdcz t == (true, true, true) && t.pc == 0x101) = true ∧
    after 0x3F10 (start 0xF0 0 false) (fun t => t.w == 0x00 && cdcz t == (true, false, true)) = true := by decide

/-- V-ADD-7, V-ADD-8 with register 12H. -/
theorem test_addwf :
    after 0x0792 (start 0x0F 0x01 true) (fun t => t.w == 0x0F && r12 t == 0x10 && cdcz t == (false, true, false)) = true ∧
    after 0x0712 (start 0xFF 0xFF false) (fun t => t.w == 0xFE && r12 t == 0xFF && cdcz t == (true, true, false)) = true := by
  decide

/-- S5. -/
theorem test_andlw : after 0x390F (start 0x3A 0 true) (fun t => t.w == 0x0A && cdcz t == (true, false, false)) = true := by
  decide

/-- S6, V-LOG-7. -/
theorem test_andwf :
    after 0x0592 (start 0xAA 0x0F true) (fun t => t.w == 0xAA && r12 t == 0x0A && cdcz t == (true, false, false)) = true ∧
    after 0x0512 (start 0xF0 0x0F false) (fun t => t.w == 0x00 && r12 t == 0x0F && t.z) = true := by decide

/-- S7, V-BIT-3. -/
theorem test_bcf :
    after 0x1392 (start 0 0xFF false) (fun t => r12 t == 0x7F) = true ∧
    after 0x1192 (start 0 0x0F false) (fun t => r12 t == 0x07 && cdcz t == (false, false, false)) = true := by decide

/-- S8, V-BIT-4. -/
theorem test_bsf :
    after 0x1792 (start 0 0x00 false) (fun t => r12 t == 0x80) = true ∧
    after 0x1612 (start 0 0x0F false) (fun t => r12 t == 0x1F) = true := by decide

/-- V-SKP-1, V-SKP-2. -/
theorem test_btfsc :
    after 0x1A92 (start 0 0x20 false) (fun t => t.pc == 0x101) = true ∧
    after 0x1A92 (start 0 0xDF false) (fun t => t.pc == 0x102 && r12 t == 0xDF) = true := by decide

/-- V-SKP-12, V-SKP-13: the skip wraps. -/
theorem test_skip_wraps :
    after 0x1812 { start 0 0 false with pc := 0x1FFE } (fun t => t.pc == 0) = true ∧
    after 0x1812 { start 0 0 false with pc := 0x1FFF } (fun t => t.pc == 1) = true := by decide

/-- V-SKP-3, V-SKP-4. -/
theorem test_btfss :
    after 0x1F92 (start 0 0x80 false) (fun t => t.pc == 0x102) = true ∧
    after 0x1F92 (start 0 0x7F false) (fun t => t.pc == 0x101) = true := by decide

/-- V-CTL-2, V-CTL-3, V-CTL-7. -/
theorem test_call :
    after 0x2123 { start 0 0 false with pclatch := 0x18 } (fun t => t.pc == 0x1923 && t.stack == [0x101]) = true ∧
    after 0x2123 { start 0 0 false with pclatch := 0xE7 } (fun t => t.pc == 0x123 && t.pclatch == 0xE7) = true ∧
    after 0x2000 { start 0 0 false with pc := 0x1FFF } (fun t => t.pc == 0 && t.stack == [0]) = true := by decide

/-- V-CTL-17: a full stack refuses, 10_state.md R31. -/
theorem test_call_full_stack :
    exec (.call 0x123) { start 0 0 false with stack := [3, 7], par := { Params.launch with stackDepth := 2 } }
      = .refused .stackOverflow := rfl

/-- S12 and V-MOV-6. -/
theorem test_clrf :
    after 0x0192 (start 0x55 0xAA true) (fun t => t.w == 0x55 && r12 t == 0 && cdcz t == (true, false, true)) = true := by
  decide

/-- S13. -/
theorem test_clrw : after 0x0103 (start 0xAA 0 true) (fun t => t.w == 0 && cdcz t == (true, false, true)) = true := by decide

/-- V-SYS-1. -/
theorem test_clrwdt :
    after 0x0064 { start 0 0 true with wdt := 9, wdtps := 5, toFlag := false, pdFlag := false }
      (fun t => t.wdt == 0 && t.wdtps == 0 && t.toFlag && t.pdFlag && cdcz t == (true, false, false)) = true := by decide

/-- S15 (as corrected), V-UN-1. -/
theorem test_comf :
    after 0x0992 (start 0x34 0x5A false) (fun t => t.w == 0x34 && r12 t == 0xA5 && !t.z) = true ∧
    after 0x0912 (start 0 0xFF false) (fun t => t.w == 0 && r12 t == 0xFF && t.z) = true := by decide

/-- V-UN-3, V-UN-4. -/
theorem test_decf :
    after 0x0392 (start 0 0x01 true) (fun t => r12 t == 0 && cdcz t == (true, false, true)) = true ∧
    after 0x0392 (start 0 0x00 true) (fun t => r12 t == 0xFF && cdcz t == (true, false, false)) = true := by decide

/-- V-SKP-5, V-SKP-7, V-SKP-8. -/
theorem test_decfsz :
    after 0x0B92 (start 0 0x01 false) (fun t => r12 t == 0 && !t.z && t.pc == 0x102) = true ∧
    after 0x0B92 (start 0 0x00 false) (fun t => r12 t == 0xFF && t.pc == 0x101) = true ∧
    after 0x0B12 (start 0x55 0x01 false) (fun t => t.w == 0 && r12 t == 1 && t.pc == 0x102) = true := by decide

/-- V-CTL-4, V-CTL-6. -/
theorem test_goto :
    after 0x2923 { start 0 0 false with pclatch := 0x08 } (fun t => t.pc == 0x923 && t.stack == []) = true ∧
    after 0x2FFF { start 0 0 false with pclatch := 0x10 } (fun t => t.pc == 0x17FF) = true := by decide

/-- V-UN-5, V-UN-6. -/
theorem test_incf :
    after 0x0A92 (start 0 0xFF false) (fun t => r12 t == 0 && cdcz t == (false, false, true)) = true ∧
    after 0x0A12 (start 0 0x7F true) (fun t => t.w == 0x80 && r12 t == 0x7F && !t.z) = true := by decide

/-- V-SKP-9, V-SKP-10. -/
theorem test_incfsz :
    after 0x0F92 (start 0 0xFF false) (fun t => r12 t == 0 && !t.z && t.pc == 0x102) = true ∧
    after 0x0F92 (start 0 0x00 false) (fun t => r12 t == 1 && t.pc == 0x101) = true := by decide

/-- S21. -/
theorem test_iorlw : after 0x380F (start 0xAA 0 false) (fun t => t.w == 0xAF && !t.z) = true := by decide

/-- S22 (as corrected). -/
theorem test_iorwf : after 0x0492 (start 0xBB 0x0F false) (fun t => t.w == 0xBB && r12 t == 0xBF && !t.z) = true := by decide

/-- V-MOV-1, V-MOV-2. -/
theorem test_movlw :
    after 0x3000 (start 0x77 0 false) (fun t => t.w == 0 && !t.z) = true ∧
    after 0x33FF (start 0 0 false) (fun t => t.w == 0xFF) = true := by decide

/-- V-MOV-4, V-MOV-5. -/
theorem test_movf :
    after 0x0892 (start 0x77 0x00 false) (fun t => t.w == 0x77 && r12 t == 0 && t.z) = true ∧
    after 0x0812 { start 0x77 0x80 false with z := true } (fun t => t.w == 0x80 && !t.z) = true := by decide

/-- S25. -/
theorem test_movwf : after 0x0092 (start 0x12 0x77 false) (fun t => r12 t == 0x12 && t.w == 0x12 && !t.z) = true := by decide

/-- V-CTL-15. -/
theorem test_nop : after 0x0000 { start 1 2 true with pc := 0x1FFF } (fun t => t.pc == 0 && t.w == 1 && r12 t == 2) = true := by
  decide

/-- V-CTL-12. -/
theorem test_retfie :
    after 0x0009 { start 0 0 false with stack := [0x101], gie := false }
      (fun t => t.pc == 0x101 && t.stack == [] && t.gie) = true := by decide

/-- V-CTL-11. -/
theorem test_retlw :
    after 0x3700 { start 0x12 0 false with stack := [0x3, 0x101] }
      (fun t => t.w == 0 && !t.z && t.pc == 0x101 && t.stack == [0x3] && !t.gie) = true := by decide

/-- V-CTL-9, V-CTL-16. -/
theorem test_return :
    after 0x0008 { start 0 0 false with stack := [0x3, 0x101] } (fun t => t.pc == 0x101 && t.stack == [0x3]) = true ∧
    exec .ret (start 0 0 false) = .refused .stackUnderflow := ⟨by decide, rfl⟩

/-- S30 (as corrected), V-ROT-1. -/
theorem test_rlf :
    after 0x0D92 (start 0 0x8F false) (fun t => r12 t == 0x1E && t.c && !t.z) = true ∧
    after 0x0D92 (start 0 0x00 true) (fun t => r12 t == 0x01 && !t.c) = true := by decide

/-- S31, V-ROT-2. -/
theorem test_rrf :
    after 0x0C12 (start 0 0x8F false) (fun t => t.w == 0x47 && r12 t == 0x8F && t.c) = true ∧
    after 0x0C92 (start 0 0x00 true) (fun t => r12 t == 0x80 && !t.c) = true := by decide

/-- V-SYS-3. -/
theorem test_sleep :
    after 0x0063 { start 0 0 false with wdt := 9, wdtps := 5, toFlag := false, pdFlag := true }
      (fun t => t.wdt == 0 && t.wdtps == 0 && t.toFlag && !t.pdFlag && t.sleeping && t.pc == 0x101) = true := by decide

/-- S33c, V-SUB-6. -/
theorem test_sublw :
    after 0x3C02 (start 0x03 0 true) (fun t => t.w == 0xFF && cdcz t == (false, false, false)) = true ∧
    after 0x3C00 (start 0x10 0 true) (fun t => t.w == 0xF0 && cdcz t == (false, true, false)) = true := by decide

/-- V-SUB-8, V-SUB-12. -/
theorem test_subwf :
    after 0x0292 (start 0x00 0x35 false) (fun t => r12 t == 0x35 && t.w == 0 && cdcz t == (true, true, false)) = true ∧
    after 0x0292 (start 0x80 0x7F true) (fun t => r12 t == 0xFF && cdcz t == (false, true, false)) = true := by decide

/-- V-UN-7, V-UN-8. -/
theorem test_swapf :
    after 0x0E12 { start 0 0xF0 false with z := true } (fun t => t.w == 0x0F && t.z) = true ∧
    after 0x0E92 (start 0 0x12 false) (fun t => r12 t == 0x21) = true := by decide

/-- S37, V-LOG-5. -/
theorem test_xorlw :
    after 0x3A0F (start 0xAA 0 false) (fun t => t.w == 0xA5 && !t.z) = true ∧
    after 0x3AAA (start 0xAA 0 true) (fun t => t.w == 0 && cdcz t == (true, false, true)) = true := by decide

/-- S38. -/
theorem test_xorwf : after 0x0692 (start 0xAA 0x0F false) (fun t => r12 t == 0xA5 && t.w == 0xAA && !t.z) = true := by decide

/-! ## Special registers (20_memory.md R62, R65, with the second instance of the parameters) -/

/-- A state with the parameters of the family's map. -/
def famState : State := { start 0xFF 0 false with par := Params.family, mem := [] }

/-- STATUS reads as its flags and its storage bits: 07H written by MOVWF sets C, DC, Z and leaves TO and PD; ADDWF 03H,1 leaves
the flags of the addition, not those of the byte it writes. -/
theorem test_status_register :
    after 0x0083 { famState with w := 0x07 } (fun t => cdcz t == (true, true, true) && t.toFlag && t.pdFlag) = true ∧
    after 0x0783 { famState with w := 0x01, mem := [(3, 0)] } (fun t => cdcz t == (false, false, false)) = true := by decide

/-- BSF 0AH,3 reaches PCLATCH, BCF 0BH,7 reaches GIE, BSF 0BH,5 the enable of the first source D1 does not name. -/
theorem test_pclatch_and_intcon_registers :
    after 0x158A famState (fun t => t.pclatch == 0x08) = true ∧
    after 0x138B { famState with gie := true } (fun t => !t.gie) = true ∧
    after 0x168B famState (fun t => t.irq.others == [⟨true, false, false⟩]) = true := by decide

/-- A general register answers its function of the state, and pc goes on from what that leaves (log entry 6). -/
theorem test_general_register :
    ∃ t, exec (.movf 0x02 .w) famState = .next t ∧ t.w = (Config.specialRead 2 famState).1 ∧
      t.pc = (Config.specialRead 2 famState).2.pc + 1 := ⟨_, rfl, rfl, rfl⟩

/-! ## Events at a boundary (60_exceptions.md, 70_reset_and_hazards.md section 1) -/

/-- INT pin enabled, requesting and able to wake. -/
def intRequest : Irq := { Irq.quiet with rb0Int := ⟨true, true, true⟩ }

/-- RB port change in its waking condition and requesting, but not enabled. -/
def portMasked : Irq := { Irq.quiet with rbChange := ⟨false, true, true⟩ }

/-- A boundary at which the sources are `q` and the core accepts what it may. -/
def accepting (q : Irq) : Inputs := { Inputs.quiet with irq := some q, accept := true }

/-- At a boundary with a request pending and GIE = 1. -/
def interrupted : State := { start 0 0 false with gie := true, inputs := [accepting intRequest], stack := [0x7] }

/-- The same with the stack full. -/
def interruptedFull : State := { interrupted with par := { Params.launch with stackDepth := 1 } }

/-- A sleeping core with the schedule given and the WDT enabled. -/
def asleep (l : List Inputs) : State :=
  { start 0 0 false with sleeping := true, toFlag := true, pdFlag := false, inputs := l,
                         par := { Params.launch with wdtEnabled := true } }

/-- The same with the WDT disabled. -/
def dormant (l : List Inputs) : State := { asleep l with par := Params.launch }

/-- /MCLR asks for a reset, a time-out happens at the same boundary. -/
def resetAsked : Inputs := { Inputs.quiet with mclr := true, wdtTimeout := true }

/-- The WDT times out. -/
def timeOut : Inputs := { Inputs.quiet with wdtTimeout := true, wdtTicks := 256 }

/-- R247: the entry pushes pc and clears GIE; W and the flags are kept. -/
theorem test_interrupt_entry :
    step interrupted = .next { interrupted with
      stack := [0x7, 0x100], gie := false, pc := 0x0004, inputs := [], irq := intRequest } := rfl

/-- R257: WDT wake-up. -/
theorem test_watchdog_wake :
    step (asleep [timeOut]) = .next { asleep [] with sleeping := false, toFlag := false, wdt := 256 } := rfl

/-- 45_system.md R222: a source that is not enabled does not end the sleep. -/
theorem test_masked_source_does_not_wake :
    step (dormant [accepting portMasked]) = .next { dormant [] with irq := portMasked } := rfl

/-- R280: a /MCLR reset gives TO and PD their parameters, here 0 and 1, out of sleep (where SLEEP left 1 and 0) and while running. -/
theorem test_mclr_reset_awake_or_asleep :
    ∀ b, ∃ t, step { asleep [resetAsked] with
        sleeping := b, par := { Params.launch with wdtEnabled := true, resetTo := false } } = .next t ∧
      t.toFlag = false ∧ t.pdFlag = true ∧ t.sleeping = false := fun _ => ⟨_, rfl, rfl, rfl, rfl⟩

/-- The world moves the devices at a boundary (20_memory.md R75). -/
theorem test_boundary_moves_devices :
    step (dormant [{ Inputs.quiet with device := some 7 }]) = .next { dormant [] with device := 7 } := rfl

/-! ## Witnesses: for every obligation with hypotheses, values that meet them -/

/-- A state whose next step runs the word given. -/
def loaded (n : Nat) : State := (start 0x5A 0xA5 true).withFetchWord 14 n

theorem witness_DecodeInvertsEncode :
    wellFormed (.bcf 127 7) = true ∧ wellFormed (.goto 2047) = true ∧ wellFormed (.addlw 255) = true ∧
    wellFormed (.addwf 0 .w) = true := by decide

theorem witness_EncodeOfDecodeClearsDontCareBits :
    decode 0x3FFF = .instr (.addlw 255) ∧ decode 0x0060 = .instr .nop := by decide

theorem witness_DontCareBitsDoNotMatter : decode 0x33FF = .instr (.movlw 255) ∧ dontCareMask (.movlw 255) = 0x0300 := by decide

theorem witness_NoTwoRowsMatchOneWord :
    ∃ r, opcodeRows[33]? = some r ∧ (0x3DFF : InstrWord) &&& r.mask = r.value := ⟨_, rfl, by decide⟩

theorem witness_StepRunsDecodedInstruction_quiet :
    ExecutesNow (loaded 0x3E11) ∧ (loaded 0x3E11).pc.toNat < (loaded 0x3E11).par.progSize ∧
    progRead (loaded 0x3E11).prog (loaded 0x3E11).pc.toNat = some 0x3E11 ∧ decode 0x3E11 = .instr (.addlw 0x11) ∧
    (loaded 0x3E11).inputs = [] := by unfold ExecutesNow NoResetNow AcceptsNow; decide

/-- A pending request that GIE = 0 keeps out, with something else to take in. -/
def masked : State := { loaded 0x3E11 with inputs := [accepting intRequest, timeOut], gie := false }

theorem witness_StepRunsDecodedInstruction_inputs :
    ExecutesNow masked ∧ masked.pc.toNat < masked.par.progSize ∧ progRead masked.prog masked.pc.toNat = some 0x3E11 := by
  unfold ExecutesNow NoResetNow AcceptsNow; decide

/-- Program memory ends at pc. -/
def atEnd : State := { loaded 0 with par := { Params.launch with progSize := 0x100 } }

theorem witness_FetchAndDecodeStops_outOfRange : ExecutesNow atEnd ∧ atEnd.par.progSize ≤ atEnd.pc.toNat := by
  unfold ExecutesNow NoResetNow AcceptsNow; decide

theorem witness_FetchAndDecodeStops_unprogrammed :
    ExecutesNow State.reset ∧ State.reset.pc.toNat < State.reset.par.progSize ∧
    progRead State.reset.prog State.reset.pc.toNat = none := by unfold ExecutesNow NoResetNow AcceptsNow; decide

theorem witness_FetchAndDecodeStops_illegal :
    ExecutesNow (loaded 0x3B00) ∧ (loaded 0x3B00).pc.toNat < (loaded 0x3B00).par.progSize ∧
    progRead (loaded 0x3B00).prog (loaded 0x3B00).pc.toNat = some 0x3B00 ∧ decode 0x3B00 = .illegalEncoding := by
  unfold ExecutesNow NoResetNow AcceptsNow; decide

theorem witness_LoadedWordRunsNext : decodeTableWord 14 0x3FFF = some (.addlw 255) ∧ decodeTableWord 16 0x0063 = some .sleep := by
  decide

theorem witness_EveryStepKeepsInvariant : Inv (loaded 0x0792) ∧ ∃ t, step (loaded 0x0792) = .next t := ⟨by decide, _, rfl⟩

theorem witness_EveryStepKeepsInvariant_interrupt : Inv interrupted ∧ ∃ t, step interrupted = .next t := ⟨by decide, _, rfl⟩

theorem witness_ProgramMemoryNeverChanges : ∃ t, step (loaded 0x0063) = .next t := ⟨_, rfl⟩

/-- A state with two return addresses. -/
def called : State := { start 0 0x80 false with stack := [0x3, 0x101] }

theorem witness_NextPcTable_transfers :
    (∃ t, exec (.goto 2047) called = .next t) ∧ (∃ t, exec (.call 0) called = .next t) ∧ (∃ t, exec .ret called = .next t) ∧
    (∃ t, exec (.retlw 0) called = .next t) ∧ ∃ t, exec .retfie called = .next t :=
  ⟨⟨_, rfl⟩, ⟨_, rfl⟩, ⟨_, rfl⟩, ⟨_, rfl⟩, _, rfl⟩

theorem witness_NextPcTable_skips :
    readFile 0x12 called = some (0x80, called) ∧ (∃ t, exec (.btfsc 0x12 7) called = .next t) ∧
    (∃ t, exec (.btfss 0x12 0) called = .next t) ∧ (∃ t, exec (.decfsz 0x12 .f) called = .next t) ∧
    ∃ t, exec (.incfsz 0x12 .w) called = .next t :=
  ⟨by decide, ⟨_, rfl⟩, ⟨_, rfl⟩, ⟨_, rfl⟩, _, rfl⟩

theorem witness_NextPcTable_skips_at_boundary :
    readFile 0x12 (start 0 0x01 false) = some (0x01, start 0 0x01 false) ∧
    (∃ t, exec (.decfsz 0x12 .w) (start 0 0x01 false) = .next t) ∧
    readFile 0x12 (start 0 0xFF false) = some (0xFF, start 0 0xFF false) ∧
    ∃ t, exec (.incfsz 0x12 .f) (start 0 0xFF false) = .next t :=
  ⟨by decide, ⟨_, rfl⟩, by decide, _, rfl⟩

theorem witness_NextPcTable_sequence :
    isTransfer .clrw = false ∧ isSkip .clrw = false ∧ ∃ t, exec .clrw called = .next t := ⟨rfl, rfl, _, rfl⟩

/-- With the empty map nothing is a special register. -/
theorem not_touchesSpecial_of_launch (i : Instr) (s : State) (h : s.par = Params.launch) : ¬ TouchesSpecial i s := by
  rintro ⟨f, r, -, hk⟩
  rw [h] at hk
  unfold fileKind at hk
  split at hk
  · split at hk <;> cases hk
  · cases hk

/-- Where no special register is touched, no general one is. -/
theorem not_touchesGeneral {i : Instr} {s : State} (h : ¬ TouchesSpecial i s) : ¬ TouchesGeneral i s :=
  fun ⟨f, id, hf, hk⟩ => h ⟨f, .general id, hf, hk⟩

/-- An instruction that touches a device register touches no general one. -/
theorem not_touchesGeneral_device : ¬ TouchesGeneral (.btfss 0x05 7) famState := by
  rintro ⟨f, id, hf, hk⟩
  cases hf
  cases hk

theorem witness_NextPcTable_general :
    ¬ TouchesGeneral (.btfss 0x12 7) called ∧ (∃ t, exec (.btfss 0x12 7) called = .next t) ∧
    TouchesGeneral (.movwf 0x02) famState ∧ ∃ t, exec (.movwf 0x02) famState = .next t :=
  ⟨not_touchesGeneral (not_touchesSpecial_of_launch _ _ rfl), ⟨_, rfl⟩, ⟨0x02, 2, rfl, by decide⟩, _, rfl⟩

theorem witness_FlagTableFrame :
    ¬ TouchesSpecial (.addwf 127 .f) called ∧ (∃ t, exec (.addwf 127 .f) called = .next t) ∧
    ¬ TouchesSpecial (.incf 0 .w) called ∧ (∃ t, exec (.incf 0 .w) called = .next t) ∧
    ¬ TouchesSpecial (.rlf 0x12 .f) called ∧ (∃ t, exec (.rlf 0x12 .f) called = .next t) ∧
    ¬ TouchesSpecial .sleep called ∧ ∃ t, exec .sleep called = .next t :=
  ⟨not_touchesSpecial_of_launch _ _ rfl, ⟨_, rfl⟩, not_touchesSpecial_of_launch _ _ rfl, ⟨_, rfl⟩,
    not_touchesSpecial_of_launch _ _ rfl, ⟨_, rfl⟩, not_touchesSpecial_of_launch _ _ rfl, _, rfl⟩

theorem witness_ControlStateFrame :
    ¬ TouchesSpecial (.movwf 0x12) called ∧ (∃ t, exec (.movwf 0x12) called = .next t) ∧
    ¬ TouchesSpecial .retfie called ∧ (∃ t, exec .retfie called = .next t) ∧
    ¬ TouchesGeneral (.clrf 0x12) called ∧ ∃ t, exec (.clrf 0x12) called = .next t :=
  ⟨not_touchesSpecial_of_launch _ _ rfl, ⟨_, rfl⟩, not_touchesSpecial_of_launch _ _ rfl, ⟨_, rfl⟩,
    not_touchesGeneral (not_touchesSpecial_of_launch _ _ rfl), _, rfl⟩

/-- The hypotheses of the results on plain storage, at both ends of the f range and at the ends of b: AddwfResult, SubwfResult,
LogicWithFileResult, ComplementAndMoveResult, IncrementDecrementResult, RotateResult, SwapClearStoreResult,
BitClearAndSetResult, BitTestSkipResult, CountAndSkipResult, PlainStorageReadsLastWrite, RotationsComeBackAround. -/
theorem witness_results_on_plain_storage :
    called.mem.wf = true ∧ fileKind 0 called.par = .plain ∧ fileKind 127 called.par = .plain ∧
    fileKind 0x12 called.par = .plain ∧ (0 < 8) ∧ 7 < 8 := by decide

/-- The hypotheses of the results on a special register: ArithmeticOnSpecialRegister, LogicOnSpecialRegister,
MovesAndSkipsOnSpecialRegister. -/
theorem witness_results_on_special_registers :
    fileKind 0x03 famState.par = .special (.layout statusLayout) ∧
    fileKind 0x0B famState.par = .special (.layout intconLayout) ∧ fileKind 0x05 famState.par = .special .device ∧
    fileKind 0x02 famState.par = .special (.general 2) ∧ sfrIsGeneral .device = false ∧
    sfrIsGeneral (.layout statusLayout) = false ∧ 7 < 8 := by decide

theorem witness_UnmappedFileIsRefused :
    fileOperand (.addwf 0x7F .f) = some 0x7F ∧ fileKind 0x7F famState.par = .unmapped ∧ fileOperand (.clrf 0x07) = some 0x07 ∧
    fileKind 0x07 famState.par = .unmapped ∧ fileKind 128 called.par = .unmapped := by decide

theorem witness_EqualReadsMakeEqualMemories :
    Memory.wf [(0x12, 0x80)] = true ∧ Memory.wf (memWrite [] 0x12 0x80) = true ∧ ∀ a, memRead [(0x12, 0x80)] a = memRead (memWrite [] 0x12 0x80) a :=
  ⟨by decide, by decide, fun _ => rfl⟩

theorem witness_SpecialRegisterReadsItsBits :
    fileKind 0x0A famState.par = .special (.layout pclatchLayout) ∧ layoutLegal 0 pclatchLayout = true := by decide

theorem witness_SpecialRegisterWriteChangesWritableBits :
    famState.mem.wf = true ∧ fileKind 0x03 famState.par = .special (.layout statusLayout) ∧
    layoutLegal 0 statusLayout = true ∧ fileKind 0x0B famState.par = .special (.layout intconLayout) ∧
    layoutLegal 0 intconLayout = true := by decide

/-- A writable bit that no higher bit of STATUS names again: C at position 0, a stored bit at 7. -/
theorem witness_SpecialRegisterWriteChangesWritableBits_written :
    ∀ j ∈ [0, 7], ∃ b, statusLayout[j]? = some b ∧ changedByWrite b = true ∧
      ∀ k c, j < k → statusLayout[k]? = some c → c.writable = true → c.source = b.source → b.source = .stored := by
  intro j hj
  have hl : ∀ k c, 0 < k → statusLayout[k]? = some c → c.source ≠ .c := by
    intro k c hk h
    match k, h with
    | 1, h | 2, h | 3, h | 4, h | 5, h | 6, h | 7, h => cases h; decide
    | n + 8, h => cases h
  rcases List.mem_cons.mp hj with rfl | hj
  · exact ⟨_, rfl, rfl, fun k c hk h _ hs => absurd hs (hl k c hk h)⟩
  · cases List.mem_singleton.mp hj
    exact ⟨_, rfl, rfl, fun _ _ _ _ _ _ => rfl⟩

/-- Pieces of state that PCLATCH at 0AH does not name: C, and a stored bit. -/
theorem witness_SpecialRegisterWriteChangesWritableBits_kept :
    ∀ x ∈ [BitSource.c, .stored], ∀ (k : Nat) (c : SfrBit), pclatchLayout[k]? = some c → c.writable = true → c.source ≠ x := by
  intro x hx k c h hw
  match k, h with
  | 0, h | 1, h | 2, h | 3, h | 4, h | 5, h | 6, h | 7, h => cases h; revert x; decide
  | n + 8, h => cases h

theorem witness_DeviceAndGeneralRegisterAccess :
    fileKind 0x05 famState.par = .special .device ∧ fileKind 0x02 famState.par = .special (.general 2) ∧
    (∀ x y : State, x = y.adopt famState → y = Config.specialWrite 2 0xFF famState →
      writeFile 0x02 0xFF famState = some x) := ⟨by decide, by decide, fun _ _ hx hy => by rw [hx, hy]; rfl⟩

/-- The ranges of the literals: AddlwResult, SublwResult, LogicWithLiteralResult, MovlwResult, GotoResult. -/
theorem witness_results_with_literals : (0 : Nat) ≤ 255 ∧ 255 ≤ 255 ∧ 0 ≤ 2047 ∧ 2047 ≤ 2047 := by decide

/-- PD = 0. -/
def atPowerDown : State := { start 0 0 false with pdFlag := false }

theorem witness_ClrwdtResult :
    ¬ TouchesSpecial .clrwdt atPowerDown ∧ atPowerDown.pdFlag = false ∧
    ∃ t, exec .clrwdt atPowerDown = .next t ∧ t.pdFlag = true := ⟨not_touchesSpecial_of_launch _ _ rfl, rfl, _, rfl, rfl⟩

/-- The stack holds one address less than it may, and as many as it may. -/
def oneLeft : State := { start 0 0 false with stack := [1, 2, 3, 4, 5, 6, 7] }

theorem witness_CallResult :
    (2047 ≤ 2047 ∧ oneLeft.stack.length < oneLeft.par.stackDepth) ∧
    interruptedFull.par.stackDepth ≤ interruptedFull.stack.length := by decide

theorem witness_ReturnsResult :
    255 ≤ 255 ∧ called.stack = [0x3] ++ [0x101] ∧ interrupted.stack = [] ++ [0x7] ∧ State.reset.stack = [] := by decide

theorem witness_ReturnGoesBackAfterTheCall :
    2047 ≤ 2047 ∧ oneLeft.stack.length < oneLeft.par.stackDepth ∧
    ∃ t, exec (.call 2047) oneLeft = .next t ∧ { State.reset with stack := t.stack }.stack = t.stack :=
  ⟨by decide, by decide, _, rfl, rfl⟩

theorem witness_CyclesTable :
    (∃ t, exec (.goto 0) called = .next t ∧ isTransfer (.goto 0) = true) ∧
    (∃ t, exec .nop called = .next t ∧ isTransfer .nop = false ∧ isSkip .nop = false) ∧
    (∃ t, exec (.btfsc 0x12 7) called = .next t ∧ isSkip (.btfsc 0x12 7) = true) ∧
    (∃ t, exec (.btfss 0x12 7) called = .next t ∧ isSkip (.btfss 0x12 7) = true) ∧
    ¬ TouchesGeneral (.btfss 0x05 7) famState ∧ ∃ t, exec (.btfss 0x05 7) famState = .next t :=
  ⟨⟨_, rfl, rfl⟩, ⟨_, rfl, rfl, rfl⟩, ⟨_, rfl, rfl⟩, ⟨_, rfl, rfl⟩, not_touchesGeneral_device,
    _, rfl⟩

theorem witness_InterruptEntryResult_room :
    NoResetNow interrupted ∧ interrupted.sleeping = false ∧ AcceptsNow interrupted ∧
    interrupted.stack.length < interrupted.par.stackDepth := by unfold NoResetNow AcceptsNow; decide

theorem witness_InterruptEntryResult_full :
    NoResetNow interruptedFull ∧ interruptedFull.sleeping = false ∧ AcceptsNow interruptedFull ∧
    interruptedFull.par.stackDepth ≤ interruptedFull.stack.length := by unfold NoResetNow AcceptsNow; decide

theorem witness_RetfieReturnsToInterruptedInstruction :
    NoResetNow interrupted ∧ interrupted.sleeping = false ∧ AcceptsNow interrupted ∧
    ∃ t, step interrupted = .next t ∧ { State.reset with stack := t.stack }.stack = t.stack :=
  ⟨⟨rfl, rfl⟩, rfl, ⟨rfl, rfl, rfl⟩, _, rfl, rfl⟩

/-- At a RETFIE with GIE = 0 and one address on the stack. -/
def atRetfie : State := { loaded 0x0009 with stack := [0x101] }

theorem witness_OnlyRetfieSetsGie :
    atRetfie.par.sfrMap = [] ∧ atRetfie.gie = false ∧ ∃ t, step atRetfie = .next t ∧ t.gie = true :=
  ⟨rfl, rfl, _, rfl, rfl⟩

theorem witness_NoInterruptWithGieClear : masked.gie = false ∧ masked.sleeping = false := by decide

theorem witness_MclrResetOverridesAll :
    (inputsNow (asleep [resetAsked])).mclr = true ∧ (inputsNow { interrupted with inputs := [resetAsked] }).mclr = true := by
  decide

/-- A running core with the WDT enabled, at a time-out. -/
def awake : State := { asleep [timeOut] with sleeping := false }

/-- A running core with the WDT disabled, at a time-out. -/
def unwatched : State := { interrupted with inputs := [timeOut] }

theorem witness_WatchdogTimeoutResult :
    ((inputsNow (asleep [timeOut])).mclr = false ∧ (inputsNow (asleep [timeOut])).wdtTimeout = true ∧
      (asleep [timeOut]).par.wdtEnabled = true ∧ (asleep [timeOut]).sleeping = true) ∧
    ((inputsNow awake).mclr = false ∧ (inputsNow awake).wdtTimeout = true ∧ awake.par.wdtEnabled = true ∧
      awake.sleeping = false) ∧
    (inputsNow unwatched).mclr = false ∧ (inputsNow unwatched).wdtTimeout = true ∧ unwatched.par.wdtEnabled = false := by
  decide

theorem witness_SleepingCoreOnlyWakes :
    (NoResetNow (asleep [accepting intRequest]) ∧ irqWake (irqNow (asleep [accepting intRequest])) = true) ∧
    NoResetNow (asleep []) ∧ irqWake (irqNow (asleep [])) = false ∧ (asleep []).sleeping = true := by
  unfold NoResetNow; decide

/-- /MCLR, the watchdog, a source that wakes, one that is not enabled, and nothing at all. -/
theorem witness_ThreeWaysOutOfSleep :
    (asleep [resetAsked]).sleeping = true ∧ (asleep [timeOut]).sleeping = true ∧ (asleep []).sleeping = true ∧
    ((asleep [accepting intRequest]).sleeping = true ∧
      (irqGet .rb0Int (irqNow (asleep [accepting intRequest]))).enable = true ∧
      (irqGet .rb0Int (irqNow (asleep [accepting intRequest]))).wake = true) ∧
    (dormant [accepting portMasked]).sleeping = true ∧ (dormant [accepting portMasked]).par.wdtEnabled = false ∧
    ∀ q ∈ [SourceName.rb0Int, .rbChange, .eeWrite], (irqGet q (irqNow (dormant [accepting portMasked]))).enable = false := by
  decide

/-- A sleep that nothing can end, also with inputs to come that have no effect on it. -/
theorem witness_RunThatIsOverStaysPut_sleep :
    RunOver (dormant []) ∧ RunOver (dormant [accepting portMasked, timeOut]) := by
  refine ⟨⟨⟨rfl, by decide⟩, .inl ⟨rfl, rfl, by simp [dormant, asleep]⟩⟩, ⟨rfl, by decide⟩, .inl ⟨rfl, rfl, ?_⟩⟩
  intro inp hi q hq
  simp only [dormant, asleep, List.mem_cons, List.not_mem_nil, or_false] at hi
  rcases hi with rfl | rfl
  · cases hq; rfl
  · cases hq

/-- V-CTL-14: GOTO 100H at 0100; with GIE = 0, and with GIE = 1 and nothing ever pending. -/
theorem witness_RunThatIsOverStaysPut_loop :
    RunOver { loaded 0x2900 with inputs := [accepting intRequest] } ∧ RunOver { loaded 0x2900 with gie := true } :=
  ⟨⟨⟨rfl, by decide⟩, .inr ⟨rfl, .inl rfl, 0x2900, 0x100, by decide, by decide, by decide⟩⟩,
    ⟨rfl, by decide⟩, .inr ⟨rfl, .inr ⟨rfl, by simp [loaded, State.withFetchWord, loadWordAtPc]⟩, 0x2900, 0x100, by decide,
      by decide, by decide⟩⟩

end Sys2Proof.Tests
end

section
/-! SUPPORT, and the proofs of O3 and O5. The 14-bit words read along the decision tree and along the table (30_encoding.md
R98, R100, R105): the table confirms the tree's answer for every word, its rows exclude each other, and no row looks at its
don't-care bits. -/

namespace Sys2Proof.Proofs.Encoding

open Sys2Proof Sys2Proof.Machine

/-! ## Fields and masks as arithmetic

But for NOP every mask of R100 keeps the bits from some position `k` up. Under such a mask a word is its quotient by
`2 ^ k`, which is also what the bit fields tested by the decision tree are made of. -/

theorem toNat_and_highMask (w : InstrWord) (k : Nat) :
    (w &&& BitVec.allOnes 14 <<< k).toNat = w.toNat / 2 ^ k * 2 ^ k := by
  rw [← BitVec.shiftLeft_ushiftRight, BitVec.toNat_shiftLeft, BitVec.toNat_ushiftRight, Nat.shiftLeft_eq,
    Nat.shiftRight_eq_div_pow]
  exact Nat.mod_eq_of_lt (Nat.lt_of_le_of_lt (Nat.div_mul_le_self _ _) w.isLt)

theorem and_highMask_eq_iff (w v : InstrWord) (k : Nat) :
    w &&& BitVec.allOnes 14 <<< k = v ↔ w.toNat / 2 ^ k * 2 ^ k = v.toNat := by
  rw [← toNat_and_highMask, BitVec.toNat_inj]

theorem toNat_field (w : InstrWord) (k n : Nat) : (w.extractLsb' k n).toNat = w.toNat / 2 ^ k % 2 ^ n := by
  rw [BitVec.extractLsb'_toNat, Nat.shiftRight_eq_div_pow]

theorem getLsbD_iff (w : InstrWord) (k : Nat) : w.getLsbD k = true ↔ w.toNat / 2 ^ k % 2 = 1 := by
  rw [BitVec.getLsbD, Nat.testBit_eq_decide_div_mod_eq, decide_eq_true_iff]

/-! ## The rows exclude each other -/

/-- Two masked patterns that one word fits agree on the bits both masks keep. -/
theorem patterns_agree {w v m v' m' : InstrWord} (h : w &&& m = v) (h' : w &&& m' = v') : v &&& m' = v' &&& m := by
  rw [← h, ← h', BitVec.and_assoc, BitVec.and_assoc, BitVec.and_comm m]

/-- Any two rows differ on a bit that both their masks keep. -/
theorem rows_pairwise_differ : opcodeRows.Pairwise fun r q => r.value &&& q.mask ≠ q.value &&& r.mask := by decide

/-- The rows at two positions that match one word are at one position. -/
theorem position_unique {i j : Nat} {r q : OpcodeRow} {w : InstrWord} (hi : opcodeRows[i]? = some r)
    (hj : opcodeRows[j]? = some q) (hr : w &&& r.mask = r.value) (hq : w &&& q.mask = q.value) : i = j := by
  obtain ⟨hil, rfl⟩ := List.getElem?_eq_some_iff.mp hi
  obtain ⟨hjl, rfl⟩ := List.getElem?_eq_some_iff.mp hj
  have differ := List.pairwise_iff_getElem.mp rows_pairwise_differ
  rcases Nat.lt_trichotomy i j with hij | hij | hij
  · exact absurd (patterns_agree hr hq) (differ i j hil hjl hij)
  · exact hij
  · exact absurd (patterns_agree hq hr) (differ j i hjl hil hij)

theorem row_unique {r q : OpcodeRow} {w : InstrWord} (hr : r ∈ opcodeRows) (hq : q ∈ opcodeRows)
    (hwr : w &&& r.mask = r.value) (hwq : w &&& q.mask = q.value) : r = q := by
  obtain ⟨i, hi⟩ := List.mem_iff_getElem?.mp hr
  obtain ⟨j, hj⟩ := List.mem_iff_getElem?.mp hq
  cases position_unique hi hj hwr hwq
  exact Option.some.inj (hi.symm.trans hj)

/-! ## The table confirms the answers of the tree -/

/-- The table says of the word what `d` says: a row that matches it builds the instruction, or no row matches it. -/
def TableSays (w : InstrWord) : Decoded → Prop
  | .instr i => ∃ r ∈ opcodeRows, w &&& r.mask = r.value ∧ r.build w = i
  | .illegalEncoding => ∀ r ∈ opcodeRows, w &&& r.mask ≠ r.value

/-- The row at position `n`, whose mask keeps the bits from `k` up, gives its instruction to the words with its high bits. -/
theorem tableSays_row {w : InstrWord} (n k : Nat) (hn : n < opcodeRows.length)
    (hmask : opcodeRows[n].mask = BitVec.allOnes 14 <<< k)
    (hvalue : w.toNat / 2 ^ k * 2 ^ k = opcodeRows[n].value.toNat) : TableSays w (.instr (opcodeRows[n].build w)) :=
  ⟨opcodeRows[n], List.getElem_mem hn, by rw [hmask, and_highMask_eq_iff, hvalue], rfl⟩

/-- A row that fixes all 14 bits gives its instruction to its one word. -/
theorem tableSays_value (n : Nat) (hn : n < opcodeRows.length) (hmask : opcodeRows[n].mask = BitVec.allOnes 14) :
    TableSays opcodeRows[n].value (.instr (opcodeRows[n].build opcodeRows[n].value)) :=
  ⟨opcodeRows[n], List.getElem_mem hn, by rw [hmask, BitVec.and_allOnes], rfl⟩

/-- The rows that match some word with bits 13:7 = `0000000`. -/
theorem rows_of_group0 : ∀ r ∈ opcodeRows, 0x0000#14 &&& r.mask = r.value &&& BitVec.allOnes 14 <<< 7 →
    (r.mask = 0x3F9F#14 ∧ r.value = 0) ∨
      (r.mask = BitVec.allOnes 14 ∧ r.value ∈ [0x0008#14, 0x0009#14, 0x0063#14, 0x0064#14]) := by decide

/-- The rows that match some word with bits 13:7 = `0000010`. -/
theorem rows_of_group1 : ∀ r ∈ opcodeRows, 0x0100#14 &&& r.mask = r.value &&& BitVec.allOnes 14 <<< 7 →
    (r.value, r.mask) = (0x0103#14, BitVec.allOnes 14) := by decide

/-- No row matches a word with bits 13:8 = `111011`. -/
theorem no_row_of_literal11 : ∀ r ∈ opcodeRows, 0x3B00#14 &&& r.mask ≠ r.value &&& BitVec.allOnes 14 <<< 8 := by decide

theorem tableSays_group0 {w : InstrWord} (hw : w.toNat / 256 = 0) : TableSays w (decodeGroup0 w) := by
  unfold decodeGroup0
  split
  case isTrue h7 =>
    rw [getLsbD_iff] at h7
    exact tableSays_row 5 7 (by decide) rfl (show w.toNat / 128 * 128 = 128 by omega)
  case isFalse h7 =>
  rw [getLsbD_iff] at h7
  split
  case isTrue hnop => exact ⟨opcodeRows[0], List.getElem_mem _, hnop, rfl⟩
  case isFalse hnop =>
  split
  case isTrue h => subst h; exact tableSays_value 1 (by decide) rfl
  case isFalse hret =>
  split
  case isTrue h => subst h; exact tableSays_value 2 (by decide) rfl
  case isFalse hretfie =>
  split
  case isTrue h => subst h; exact tableSays_value 3 (by decide) rfl
  case isFalse hsleep =>
  split
  case isTrue h => subst h; exact tableSays_value 4 (by decide) rfl
  case isFalse hclrwdt =>
  intro r hr hmatch
  have hhigh : w &&& BitVec.allOnes 14 <<< 7 = 0x0000#14 :=
    (and_highMask_eq_iff _ _ _).mpr (show w.toNat / 128 * 128 = 0 by omega)
  rcases rows_of_group0 r hr (patterns_agree hhigh hmatch) with ⟨hm, hv⟩ | ⟨hm, hv⟩
  · exact hnop (by rw [← hm, hmatch, hv])
  · rw [← hmatch, hm, BitVec.and_allOnes] at hv
    simp only [List.mem_cons, List.not_mem_nil, hret, hretfie, hsleep, hclrwdt, or_self] at hv

theorem tableSays_group1 {w : InstrWord} (hw : w.toNat / 256 = 1) : TableSays w (decodeGroup1 w) := by
  unfold decodeGroup1
  split
  case isTrue h7 =>
    rw [getLsbD_iff] at h7
    exact tableSays_row 7 7 (by decide) rfl (show w.toNat / 128 * 128 = 0x180 by omega)
  case isFalse h7 =>
  rw [getLsbD_iff] at h7
  split
  case isTrue h => subst h; exact tableSays_value 6 (by decide) rfl
  case isFalse hclrw =>
  intro r hr hmatch
  have hhigh : w &&& BitVec.allOnes 14 <<< 7 = 0x0100#14 :=
    (and_highMask_eq_iff _ _ _).mpr (show w.toNat / 128 * 128 = 256 by omega)
  obtain ⟨hv, hm⟩ := Prod.mk.inj (rows_of_group1 r hr (patterns_agree hhigh hmatch))
  rw [hv, hm, BitVec.and_allOnes] at hmatch
  exact hclrw hmatch

theorem rowFD_lt_length (n : Fin 14) : 8 + n.val < opcodeRows.length :=
  Nat.add_lt_add_left (m := 27) (by omega) 8

/-- The rows of format FD stand in the order of bits 11:8, from `0010` up. -/
theorem rowFD_pattern : ∀ n : Fin 14,
    (opcodeRows[8 + n.val]'(rowFD_lt_length n)).mask = BitVec.allOnes 14 <<< 8 ∧
    (opcodeRows[8 + n.val]'(rowFD_lt_length n)).value.toNat = (n.val + 2) * 256 := by decide

theorem tableSays_rowFD {w : InstrWord} (n : Fin 14) (hw : w.toNat / 256 = n.val + 2) :
    TableSays w (.instr ((opcodeRows[8 + n.val]'(rowFD_lt_length n)).build w)) := by
  obtain ⟨hmask, hvalue⟩ := rowFD_pattern n
  exact tableSays_row (8 + n.val) 8 _ hmask (by rw [hvalue, ← hw]; rfl)

theorem tableSays_register {w : InstrWord} (hw : w.toNat / 4096 = 0) : TableSays w (decodeRegister w) := by
  have hfield := toNat_field w 8 4
  unfold decodeRegister
  generalize (w.extractLsb' 8 4).toNat = n at hfield ⊢
  match n with
  | 0 => exact tableSays_group0 (by omega)
  | 1 => exact tableSays_group1 (by omega)
  | 2 => exact tableSays_rowFD 0 (by omega)
  | 3 => exact tableSays_rowFD 1 (by omega)
  | 4 => exact tableSays_rowFD 2 (by omega)
  | 5 => exact tableSays_rowFD 3 (by omega)
  | 6 => exact tableSays_rowFD 4 (by omega)
  | 7 => exact tableSays_rowFD 5 (by omega)
  | 8 => exact tableSays_rowFD 6 (by omega)
  | 9 => exact tableSays_rowFD 7 (by omega)
  | 10 => exact tableSays_rowFD 8 (by omega)
  | 11 => exact tableSays_rowFD 9 (by omega)
  | 12 => exact tableSays_rowFD 10 (by omega)
  | 13 => exact tableSays_rowFD 11 (by omega)
  | 14 => exact tableSays_rowFD 12 (by omega)
  | 15 => exact tableSays_rowFD 13 (by omega)
  | n + 16 => omega

theorem tableSays_bit {w : InstrWord} (hw : w.toNat / 4096 = 1) : TableSays w (decodeBit w) := by
  have hfield := toNat_field w 10 2
  unfold decodeBit
  generalize (w.extractLsb' 10 2).toNat = n at hfield ⊢
  match n with
  | 0 => exact tableSays_row 22 10 (by decide) rfl (show w.toNat / 1024 * 1024 = 0x1000 by omega)
  | 1 => exact tableSays_row 23 10 (by decide) rfl (show w.toNat / 1024 * 1024 = 0x1400 by omega)
  | 2 => exact tableSays_row 24 10 (by decide) rfl (show w.toNat / 1024 * 1024 = 0x1800 by omega)
  | 3 => exact tableSays_row 25 10 (by decide) rfl (show w.toNat / 1024 * 1024 = 0x1C00 by omega)
  | n + 4 => omega

theorem tableSays_transfer {w : InstrWord} (hw : w.toNat / 4096 = 2) : TableSays w (decodeTransfer w) := by
  unfold decodeTransfer
  split
  case isTrue h11 =>
    rw [getLsbD_iff] at h11
    exact tableSays_row 27 11 (by decide) rfl (show w.toNat / 2048 * 2048 = 0x2800 by omega)
  case isFalse h11 =>
    rw [getLsbD_iff] at h11
    exact tableSays_row 26 11 (by decide) rfl (show w.toNat / 2048 * 2048 = 0x2000 by omega)

theorem tableSays_movlw {w : InstrWord} (hw : w.toNat / 1024 = 12) : TableSays w (.instr (.movlw (k8Of w))) :=
  tableSays_row 28 10 (by decide) rfl (show w.toNat / 1024 * 1024 = 0x3000 by omega)

theorem tableSays_retlw {w : InstrWord} (hw : w.toNat / 1024 = 13) : TableSays w (.instr (.retlw (k8Of w))) :=
  tableSays_row 29 10 (by decide) rfl (show w.toNat / 1024 * 1024 = 0x3400 by omega)

theorem tableSays_sublw {w : InstrWord} (hw : w.toNat / 512 = 30) : TableSays w (.instr (.sublw (k8Of w))) :=
  tableSays_row 33 9 (by decide) rfl (show w.toNat / 512 * 512 = 0x3C00 by omega)

theorem tableSays_addlw {w : InstrWord} (hw : w.toNat / 512 = 31) : TableSays w (.instr (.addlw (k8Of w))) :=
  tableSays_row 34 9 (by decide) rfl (show w.toNat / 512 * 512 = 0x3E00 by omega)

theorem tableSays_literal11 {w : InstrWord} (hw : w.toNat / 256 = 0x3B) : TableSays w .illegalEncoding := by
  intro r hr hmatch
  have hhigh : w &&& BitVec.allOnes 14 <<< 8 = 0x3B00#14 :=
    (and_highMask_eq_iff _ _ _).mpr (show w.toNat / 256 * 256 = 0x3B00 by omega)
  exact no_row_of_literal11 r hr (patterns_agree hhigh hmatch)

theorem tableSays_literal {w : InstrWord} (hw : w.toNat / 4096 = 3) : TableSays w (decodeLiteral w) := by
  have hfield := toNat_field w 8 4
  unfold decodeLiteral
  generalize (w.extractLsb' 8 4).toNat = n at hfield ⊢
  match n with
  | 0 | 1 | 2 | 3 => exact tableSays_movlw (by omega)
  | 4 | 5 | 6 | 7 => exact tableSays_retlw (by omega)
  | 8 => exact tableSays_row 30 8 (by decide) rfl (show w.toNat / 256 * 256 = 0x3800 by omega)
  | 9 => exact tableSays_row 31 8 (by decide) rfl (show w.toNat / 256 * 256 = 0x3900 by omega)
  | 10 => exact tableSays_row 32 8 (by decide) rfl (show w.toNat / 256 * 256 = 0x3A00 by omega)
  | 11 => exact tableSays_literal11 (by omega)
  | 12 | 13 => exact tableSays_sublw (by omega)
  | 14 | 15 => exact tableSays_addlw (by omega)
  | n + 16 => omega

/-- The table says of every word what the decision tree says. -/
theorem tableSays_decode (w : InstrWord) : TableSays w (decode w) := by
  have hfield := toNat_field w 12 2
  have hlt := w.isLt
  unfold decode
  generalize (w.extractLsb' 12 2).toNat = n at hfield ⊢
  match n with
  | 0 => exact tableSays_register (by omega)
  | 1 => exact tableSays_bit (by omega)
  | 2 => exact tableSays_transfer (by omega)
  | 3 => exact tableSays_literal (by omega)
  | n + 4 => omega

theorem exists_row_of_decode {w : InstrWord} {i : Instr} (h : decode w = .instr i) :
    ∃ r ∈ opcodeRows, w &&& r.mask = r.value ∧ r.build w = i := by
  have hsays := tableSays_decode w
  rwa [h] at hsays

theorem decode_of_row {r : OpcodeRow} {w : InstrWord} (hr : r ∈ opcodeRows) (hw : w &&& r.mask = r.value) :
    decode w = .instr (r.build w) := by
  have hsays := tableSays_decode w
  cases hd : decode w with
  | instr i =>
    obtain ⟨q, hq, hwq, hi⟩ := exists_row_of_decode hd
    rw [row_unique hr hq hw hwq, hi]
  | illegalEncoding =>
    rw [hd] at hsays
    exact absurd hw (hsays r hr)

/-- Settles O5: distinct rows differ on a bit both masks keep, so the row through which the tree answers is the only one. -/
theorem noTwoRowsMatchOneWord : Obligations.NoTwoRowsMatchOneWord :=
  ⟨rfl, fun _ hr _ hw => decode_of_row hr hw, fun _ _ _ _ _ hi hj hr hq => position_unique hi hj hr hq⟩

/-! ## Don't-care bits -/

/-- No bit that the row's mask keeps is a don't-care bit, and the row's instruction does not depend on the
don't-care bits. -/
def IgnoresDontCareBits (r : OpcodeRow) : Prop :=
  ∀ w x : InstrWord, dontCareMask (r.build w) &&& r.mask = 0#14 ∧
    r.build (w ^^^ (x &&& dontCareMask (r.build w))) = r.build w

theorem ignoresDontCareBits_of_none {r : OpcodeRow} (h : ∀ w, dontCareMask (r.build w) = 0#14) :
    IgnoresDontCareBits r := by
  intro w x
  rw [h, BitVec.zero_and, BitVec.and_zero, BitVec.xor_zero]
  exact ⟨rfl, rfl⟩

theorem k8Of_xor_and {m : InstrWord} (hm : m.extractLsb' 0 8 = 0#8) (w x : InstrWord) : k8Of (w ^^^ (x &&& m)) = k8Of w := by
  rw [k8Of, BitVec.extractLsb'_xor, BitVec.extractLsb'_and, hm, BitVec.and_zero, BitVec.xor_zero, k8Of]

/-- A row of format K8 ignores the don't-care bits that lie outside its mask and its literal. -/
theorem ignoresDontCareBits_of_k8 {r : OpcodeRow} {m : InstrWord} (f : Nat → Instr)
    (hbuild : r.build = fun w => f (k8Of w)) (hdc : ∀ k, dontCareMask (f k) = m)
    (hfield : m.extractLsb' 0 8 = 0#8) (hmask : m &&& r.mask = 0#14) :
    IgnoresDontCareBits r := by
  intro w x
  rw [hbuild]
  simp only [hdc, hmask, k8Of_xor_and hfield, and_self]

theorem rowsPlain_ignore_dontCareBits : ∀ r ∈ opcodeRowsPlain, IgnoresDontCareBits r := by
  rw [opcodeRowsPlain, List.forall_mem_cons]
  have hnop : 0x0060#14 &&& 0x3F9F#14 = 0#14 := by decide
  refine ⟨fun _ _ => ⟨hnop, rfl⟩, fun r hr => ignoresDontCareBits_of_none fun w => ?_⟩
  revert r
  simp only [List.forall_mem_cons, dontCareMask, BitVec.ofNat_eq_ofNat, List.not_mem_nil, false_imp_iff, implies_true,
    and_self]

theorem rowsFD_ignore_dontCareBits : ∀ r ∈ opcodeRowsFD, IgnoresDontCareBits r := by
  refine fun r hr => ignoresDontCareBits_of_none fun w => ?_
  revert r
  simp only [opcodeRowsFD, List.forall_mem_cons, dontCareMask, BitVec.ofNat_eq_ofNat, List.not_mem_nil, false_imp_iff,
    implies_true, and_self]

theorem rowsBitLiteral_ignore_dontCareBits : ∀ r ∈ opcodeRowsBitLiteral, IgnoresDontCareBits r := by
  simp only [opcodeRowsBitLiteral, List.forall_mem_cons, List.not_mem_nil, false_imp_iff, implies_true, and_true]
  have hnone {r : OpcodeRow} := @ignoresDontCareBits_of_none r
  have hmovlw := ignoresDontCareBits_of_k8 (r := opcodeRows[28]) .movlw rfl (fun _ => rfl) rfl rfl
  have hretlw := ignoresDontCareBits_of_k8 (r := opcodeRows[29]) .retlw rfl (fun _ => rfl) rfl rfl
  have hsublw := ignoresDontCareBits_of_k8 (r := opcodeRows[33]) .sublw rfl (fun _ => rfl) rfl rfl
  have haddlw := ignoresDontCareBits_of_k8 (r := opcodeRows[34]) .addlw rfl (fun _ => rfl) rfl rfl
  exact ⟨hnone fun _ => rfl, hnone fun _ => rfl, hnone fun _ => rfl, hnone fun _ => rfl, hnone fun _ => rfl,
    hnone fun _ => rfl, hmovlw, hretlw, hnone fun _ => rfl, hnone fun _ => rfl, hnone fun _ => rfl, hsublw, haddlw⟩

theorem rows_ignore_dontCareBits {r : OpcodeRow} (hr : r ∈ opcodeRows) : IgnoresDontCareBits r := by
  rcases List.mem_append.mp hr with hr | hr
  · rcases List.mem_append.mp hr with hr | hr
    · exact rowsPlain_ignore_dontCareBits r hr
    · exact rowsFD_ignore_dontCareBits r hr
  · exact rowsBitLiteral_ignore_dontCareBits r hr

/-- Changing bits outside a mask leaves the masked word. -/
theorem xor_and_mask {mask m : InstrWord} (h : m &&& mask = 0#14) (w x : InstrWord) :
    (w ^^^ (x &&& m)) &&& mask = w &&& mask := by
  have hdist : (w ^^^ (x &&& m)) &&& mask = (w &&& mask) ^^^ (x &&& (m &&& mask)) := by
    ext i hi
    simp only [BitVec.getElem_and, BitVec.getElem_xor]
    rw [Bool.and_xor_distrib_right, Bool.and_assoc]
  rw [hdist, h, BitVec.and_zero, BitVec.xor_zero]

theorem decode_xor_dontCareBits {w : InstrWord} {i : Instr} (x : InstrWord) (h : decode w = .instr i) :
    decode (w ^^^ (x &&& dontCareMask i)) = .instr i := by
  obtain ⟨r, hr, hw, rfl⟩ := exists_row_of_decode h
  obtain ⟨hmask, hbuild⟩ := rows_ignore_dontCareBits hr w x
  rw [decode_of_row hr (by rw [xor_and_mask hmask, hw]), hbuild]

/-- A don't-care bit of format K8 is one of the six opcode bits, and the encoder's opcode has 0 there. -/
theorem wordK8_and_of_disjoint {op mask : BitVec 6} (h : op &&& mask = 0#6) (k : Nat) :
    wordK8 op k &&& (mask ++ 0#8) = 0 := by
  rw [wordK8, Laws.fixed_bits_of_append, h]
  rfl

theorem encode_and_dontCareMask (i : Instr) : encode i &&& dontCareMask i = 0 := by
  cases i with
  | addlw k => exact wordK8_and_of_disjoint (op := 0b111110) (mask := 0b000001) rfl k
  | sublw k => exact wordK8_and_of_disjoint (op := 0b111100) (mask := 0b000001) rfl k
  | movlw k => exact wordK8_and_of_disjoint (op := 0b110000) (mask := 0b000011) rfl k
  | retlw k => exact wordK8_and_of_disjoint (op := 0b110100) (mask := 0b000011) rfl k
  | nop => rfl
  | _ => exact BitVec.and_zero

/-- Settles O3: the row of the word matches it whatever its don't-care bits are, and builds the same instruction. -/
theorem dontCareBitsDoNotMatter : Obligations.DontCareBitsDoNotMatter :=
  ⟨fun _ x _ h => decode_xor_dontCareBits x h, encode_and_dontCareMask⟩

end Sys2Proof.Proofs.Encoding
end

section
/-! SUPPORT, and the proof of O35. The flags of AddFlags as exact sums (40_byte_oriented.md R121): C and DC are one fact, at
width 8 and at width 4. -/

namespace Sys2Proof.Proofs.AddFlags

open Sys2Proof Sys2Proof.Machine

/-- The top bit of a sum taken one bit wider is the carry: the sum does not fit the operands' width. -/
theorem getLsbD_widerSum {n : Nat} (x y : BitVec n) :
    (x.setWidth (n + 1) + y.setWidth (n + 1)).getLsbD n = decide (2 ^ n ≤ x.toNat + y.toNat) := by
  have hx : (x.setWidth (n + 1)).toNat = x.toNat := BitVec.toNat_setWidth_of_le (Nat.le_succ n)
  have hy : (y.setWidth (n + 1)).toNat = y.toNat := BitVec.toNat_setWidth_of_le (Nat.le_succ n)
  have hfits : x.toNat + y.toNat < 2 ^ (n + 1) := by
    have hpow := Nat.pow_succ' (m := 2) (n := n)
    have hxlt := x.isLt
    have hylt := y.isLt
    omega
  calc (x.setWidth (n + 1) + y.setWidth (n + 1)).getLsbD n
      = (x.setWidth (n + 1) + y.setWidth (n + 1)).msb := (BitVec.msb_eq_getLsbD_last _).symm
    _ = decide (2 ^ n ≤ (x.setWidth (n + 1) + y.setWidth (n + 1)).toNat) := BitVec.msb_eq_decide _
    _ = decide (2 ^ n ≤ x.toNat + y.toNat) := by rw [BitVec.toNat_add, hx, hy, Nat.mod_eq_of_lt hfits]

theorem toNat_lowNibble (a : Byte) : (a.extractLsb' 0 4).toNat = a.toNat % 16 := BitVec.extractLsb'_toNat ..

theorem addCarry_eq_decide (a b : Byte) : addCarry a b = decide (256 ≤ a.toNat + b.toNat) :=
  getLsbD_widerSum a b

theorem addDigitCarry_eq_decide (a b : Byte) : addDigitCarry a b = decide (16 ≤ a.toNat % 16 + b.toNat % 16) := by
  rw [← toNat_lowNibble, ← toNat_lowNibble]
  exact getLsbD_widerSum (a.extractLsb' 0 4) (b.extractLsb' 0 4)

theorem zeroFlag_eq_decide (r : Byte) : zeroFlag r = decide (r.toNat = 0) := by
  rw [zeroFlag, Bool.beq_eq_decide_eq, decide_eq_decide]
  exact BitVec.toNat_inj.symm

/-- Settles O35: C and DC are the carries out of the widths 8 and 4, and Z looks at the sum that the byte keeps. -/
theorem addFlagsAreTheCarries : Obligations.AddFlagsAreTheCarries := by
  intro a b s
  have hsum : (a + b).toNat = (a.toNat + b.toNat) % 256 := BitVec.toNat_add a b
  have hz : zeroFlag (a + b) = decide ((a.toNat + b.toNat) % 256 = 0) := by rw [zeroFlag_eq_decide, hsum]
  exact ⟨hsum, addCarry_eq_decide a b, addDigitCarry_eq_decide a b, hz, rfl⟩

end Sys2Proof.Proofs.AddFlags
end

section
/-! SUPPORT. The words of one instruction (30_encoding.md R97, R100): an instruction has its mnemonic's row, so the words
that decode to it are those the row matches and whose fields are its operands. -/

namespace Sys2Proof.Proofs.InstrWords

open Sys2Proof Sys2Proof.Machine Sys2Proof.Laws Sys2Proof.Proofs.Encoding

theorem mnemonics_nodup : (opcodeRows.map (·.mnemonic)).Nodup := by decide

/-- A row builds instructions of its own mnemonic only. -/
theorem rowMnemonic_build {r : OpcodeRow} (hr : r ∈ opcodeRows) (w : InstrWord) :
    rowMnemonic (r.build w) = r.mnemonic := by
  revert r
  simp only [opcodeRows, opcodeRowsPlain, opcodeRowsFD, opcodeRowsBitLiteral, List.forall_mem_append, List.forall_mem_cons,
    rowMnemonic, List.not_mem_nil, false_imp_iff, implies_true, and_self]

/-- The words of an instruction are those that the row of its mnemonic matches and reads as the instruction. -/
theorem decode_eq_iff_of_row {r : OpcodeRow} {i : Instr} (hr : r ∈ opcodeRows) (hm : r.mnemonic = rowMnemonic i)
    (w : InstrWord) : decode w = .instr i ↔ w &&& r.mask = r.value ∧ r.build w = i := by
  constructor
  · intro h
    obtain ⟨q, hq, hmatch, rfl⟩ := exists_row_of_decode h
    obtain rfl : r = q := List.inj_on_of_nodup_map mnemonics_nodup hr hq (by rw [hm, rowMnemonic_build hq])
    exact ⟨hmatch, rfl⟩
  · rintro ⟨hmatch, rfl⟩
    exact decode_of_row hr hmatch

theorem k8Of_eq_mod (w : InstrWord) : k8Of w = w.toNat % 256 := by
  rw [k8Of, toNat_field, Nat.pow_zero, Nat.div_one]
  rfl

/-- The row at position `n` is of format K8 and keeps the bits from `j` up: it reads `mk k` from the words with its high bits
and with `k` in the low byte. -/
theorem decode_eq_iff_of_rowK8 (n j : Nat) {mk : Nat → Instr} (hmk : mk.Injective) (hn : n < opcodeRows.length)
    (hmask : opcodeRows[n].mask = BitVec.allOnes 14 <<< j) (hbuild : opcodeRows[n].build = fun w => mk (k8Of w))
    (k : Nat) (hm : opcodeRows[n].mnemonic = rowMnemonic (mk k)) (w : InstrWord) :
    decode w = .instr (mk k) ↔ w.toNat / 2 ^ j * 2 ^ j = opcodeRows[n].value.toNat ∧ w.toNat % 256 = k := by
  rw [decode_eq_iff_of_row (List.getElem_mem hn) hm, hmask, and_highMask_eq_iff, hbuild, hmk.eq_iff, k8Of_eq_mod]

end Sys2Proof.Proofs.InstrWords
end

section
/-! SUPPORT, and the proofs of O38, O40 and O41. The literal instructions (42_literal.md): the literal as a byte, their words,
and their next states. -/

namespace Sys2Proof.Proofs.Literal

open Sys2Proof Sys2Proof.Machine Sys2Proof.Laws Sys2Proof.Proofs.InstrWords Sys2Proof.Proofs.AddFlags

section

variable {k : Nat}

/-! ## The literal as a byte -/

theorem toNat_lit8 (hk : k ≤ 255) : (lit8 k).toNat = k := Nat.mod_eq_of_lt (Nat.lt_succ_of_le hk)

theorem getLsbD_lit8 {j : Nat} (hj : j < 8) : (lit8 k).getLsbD j = k.testBit j := by
  rw [lit8, BitVec.getLsbD_ofNat, decide_eq_true hj, Bool.true_and]

theorem add_lit8 (a : Byte) : a + lit8 k = BitVec.ofNat 8 (a.toNat + k) := by
  rw [BitVec.ofNat_add, BitVec.ofNat_toNat, BitVec.setWidth_eq, lit8]

/-! ## The words -/

theorem decode_eq_addlw_iff (hk : k ≤ 255) (w : InstrWord) :
    decode w = .instr (.addlw k) ↔ w.toNat = 0x3E00 + k ∨ w.toNat = 0x3F00 + k := by
  rw [decode_eq_iff_of_rowK8 34 9 (fun _ _ => Instr.addlw.inj) (by decide) rfl rfl k rfl w]
  change w.toNat / 512 * 512 = 0x3E00 ∧ w.toNat % 256 = k ↔ _
  omega

theorem decode_eq_movlw_iff (hk : k ≤ 255) (w : InstrWord) : decode w = .instr (.movlw k) ↔
    w.toNat = 0x3000 + k ∨ w.toNat = 0x3100 + k ∨ w.toNat = 0x3200 + k ∨ w.toNat = 0x3300 + k := by
  rw [decode_eq_iff_of_rowK8 28 10 (fun _ _ => Instr.movlw.inj) (by decide) rfl rfl k rfl w]
  change w.toNat / 1024 * 1024 = 0x3000 ∧ w.toNat % 256 = k ↔ _
  omega

/-- A row that keeps all six opcode bits has one word per literal. -/
theorem decode_eq_iff_of_rowK8_noDontCare (n op : Nat) {mk : Nat → Instr} (hmk : mk.Injective) (hn : n < opcodeRows.length)
    (hmask : opcodeRows[n].mask = BitVec.allOnes 14 <<< 8) (hvalue : opcodeRows[n].value.toNat = op * 256)
    (hbuild : opcodeRows[n].build = fun w => mk (k8Of w)) (hm : opcodeRows[n].mnemonic = rowMnemonic (mk k))
    (hk : k ≤ 255) (w : InstrWord) : decode w = .instr (mk k) ↔ w.toNat = op * 256 + k := by
  rw [decode_eq_iff_of_rowK8 n 8 hmk hn hmask hbuild k hm w, hvalue]
  omega

theorem decode_eq_iorlw_iff (hk : k ≤ 255) (w : InstrWord) :
    decode w = .instr (.iorlw k) ↔ w.toNat = 0x3800 + k :=
  decode_eq_iff_of_rowK8_noDontCare 30 0x38 (fun _ _ => Instr.iorlw.inj) (by decide) rfl rfl rfl rfl hk w

theorem decode_eq_andlw_iff (hk : k ≤ 255) (w : InstrWord) :
    decode w = .instr (.andlw k) ↔ w.toNat = 0x3900 + k :=
  decode_eq_iff_of_rowK8_noDontCare 31 0x39 (fun _ _ => Instr.andlw.inj) (by decide) rfl rfl rfl rfl hk w

theorem decode_eq_xorlw_iff (hk : k ≤ 255) (w : InstrWord) :
    decode w = .instr (.xorlw k) ↔ w.toNat = 0x3A00 + k :=
  decode_eq_iff_of_rowK8_noDontCare 32 0x3A (fun _ _ => Instr.xorlw.inj) (by decide) rfl rfl rfl rfl hk w

/-! ## The next states -/

theorem exec_addlw (hk : k ≤ 255) (s : State) :
    exec (.addlw k) s = .next { s with
      w := BitVec.ofNat 8 (s.w.toNat + k)
      c := decide (256 ≤ s.w.toNat + k)
      dc := decide (16 ≤ s.w.toNat % 16 + k % 16)
      z := decide ((s.w.toNat + k) % 256 = 0)
      pc := s.pc + 1 } := by
  obtain ⟨-, hc, hdc, hz, hflags⟩ := addFlagsAreTheCarries s.w (lit8 k) (s.setW (s.w + lit8 k))
  rw [toNat_lit8 hk] at hc hdc hz
  rw [exec, execAddlw, hflags, hc, hdc, hz, add_lit8]
  rfl

end

/-- Settles O38: the flags are those of AddFlags, and bit 8 of the word is a don't-care bit. -/
theorem addlwResult : Obligations.AddlwResult :=
  fun s _ hk => ⟨exec_addlw hk s, rfl, decode_eq_addlw_iff hk⟩

/-- Settles O40: the result is the operation of W and the literal's byte, whose bits are those of `k`. -/
theorem logicWithLiteralResult : Obligations.LogicWithLiteralResult := by
  intro s k hk
  refine ⟨⟨s.w &&& lit8 k, rfl, fun j hj => ?and⟩, ⟨s.w ||| lit8 k, rfl, fun j hj => ?or⟩,
    ⟨s.w ^^^ lit8 k, rfl, fun j hj => ?xor⟩, rfl, rfl, rfl,
    fun w => ⟨decode_eq_andlw_iff hk w, decode_eq_iorlw_iff hk w, decode_eq_xorlw_iff hk w⟩⟩
  case and => rw [BitVec.getLsbD_and, getLsbD_lit8 hj]
  case or => rw [BitVec.getLsbD_or, getLsbD_lit8 hj]
  case xor => rw [BitVec.getLsbD_xor, getLsbD_lit8 hj]

/-- Settles O41: W and pc are all that is written, and bits 9 and 8 of the word are don't-care bits. -/
theorem movlwResult : Obligations.MovlwResult :=
  fun _ _ hk => ⟨rfl, rfl, decode_eq_movlw_iff hk⟩

end Sys2Proof.Proofs.Literal
end

section
/-! SUPPORT, and the proof of O42. The jump of GOTO (44_control_transfer.md R201): the target as a number, and the word. -/

namespace Sys2Proof.Proofs.ControlTransfer

open Sys2Proof Sys2Proof.Machine Sys2Proof.Laws Sys2Proof.Proofs.Encoding Sys2Proof.Proofs.InstrWords

section

variable {k : Nat}

/-- The two fields of the target do not overlap: the literal fills the low 11 bits, the bits of PCLATCH stand above it. -/
theorem toNat_target (hk : k ≤ 2047) (p : Byte) : (target p k).toNat = p.toNat / 8 % 4 * 2048 + k := by
  have hlit : (BitVec.ofNat 11 k).toNat = k := Nat.mod_eq_of_lt (Nat.lt_succ_of_le hk)
  have hlatch : (p.extractLsb' 3 2).toNat = p.toNat / 8 % 4 := by
    rw [BitVec.extractLsb'_toNat, Nat.shiftRight_eq_div_pow]
  rw [target, BitVec.toNat_append, hlit, hlatch, ← Nat.shiftLeft_add_eq_or_of_lt (Nat.lt_succ_of_le hk),
    Nat.shiftLeft_eq]

theorem target_eq_ofNat (hk : k ≤ 2047) (p : Byte) : target p k = BitVec.ofNat 13 (p.toNat / 8 % 4 * 2048 + k) := by
  rw [← toNat_target hk, BitVec.ofNat_toNat, BitVec.setWidth_eq]

theorem exec_goto (hk : k ≤ 2047) (s : State) :
    exec (.goto k) s = .next { s with pc := BitVec.ofNat 13 (s.pclatch.toNat / 8 % 4 * 2048 + k) } := by
  rw [exec, execGoto, target_eq_ofNat hk]
  rfl

theorem k11Of_eq_mod (w : InstrWord) : k11Of w = w.toNat % 2048 := by
  rw [k11Of, toNat_field, Nat.pow_zero, Nat.div_one]
  rfl

/-- The row of GOTO fixes the three high bits and reads the other eleven as the literal. -/
theorem decode_eq_goto_iff (hk : k ≤ 2047) (w : InstrWord) : decode w = .instr (.goto k) ↔ w.toNat = 5 * 2048 + k := by
  rw [decode_eq_iff_of_row (r := opcodeRows[27]) (List.getElem_mem _) rfl]
  change w &&& BitVec.allOnes 14 <<< 11 = 0x2800#14 ∧ Instr.goto (k11Of w) = .goto k ↔ _
  rw [and_highMask_eq_iff, Instr.goto.injEq, k11Of_eq_mod]
  change w.toNat / 2048 * 2048 = 0x2800 ∧ w.toNat % 2048 = k ↔ _
  omega

end

/-- Settles O42: the jump writes pc alone, its target is the two fields side by side, and the row of GOTO has no don't-care
bit. -/
theorem gotoResult : Obligations.GotoResult :=
  fun s _ hk => ⟨exec_goto hk s, rfl, decode_eq_goto_iff hk⟩

end Sys2Proof.Proofs.ControlTransfer
end

section
/-! SUPPORT. PD across an instruction (10_state.md R30, fourth row): the accesses to an f that is no special register, and the
shapes of a meaning built from them, leave PD alone. -/

namespace Sys2Proof.Proofs.PdFrame

open Sys2Proof Sys2Proof.Machine

variable {s t : State} {f : Nat} {v a : Byte}

/-- The register `f` designates is no special register. -/
def NotSpecial (f : Nat) (s : State) : Prop := ∀ r, fileKind f s.par ≠ .special r

theorem notSpecial_of_operand {i : Instr} (h : ¬ TouchesSpecial i s) (hf : fileOperand i = some f) : NotSpecial f s :=
  fun r hr => h ⟨f, r, hf, hr⟩

/-! ## The accesses -/

theorem readFile_of_notSpecial (hk : NotSpecial f s) (h : readFile f s = some (a, t)) : t = s := by
  cases hkind : fileKind f s.par with
  | plain =>
    rw [readFile_plain hkind] at h
    cases h
    rfl
  | special r => exact absurd hkind (hk r)
  | unmapped =>
    rw [readFile_unmapped hkind] at h
    cases h

theorem writeFile_pdFlag (hk : NotSpecial f s) (h : writeFile f v s = some t) : t.pdFlag = s.pdFlag := by
  cases hkind : fileKind f s.par with
  | plain =>
    rw [writeFile_plain hkind] at h
    cases h
    rfl
  | special r => exact absurd hkind (hk r)
  | unmapped =>
    rw [writeFile_unmapped hkind] at h
    cases h

/-! ## The shapes of a meaning -/

/-- A test of a register, and whatever keeps PD after it. -/
theorem withFile_pdFlag {fin : Byte → State → State} (hk : NotSpecial f s)
    (h : withFile f s (fun a u => .next (fin a u)) = .next t) (hfin : ∀ a u, (fin a u).pdFlag = u.pdFlag) :
    t.pdFlag = s.pdFlag := by
  obtain ⟨a, u, hread, hnext⟩ := withFile_next h
  obtain rfl := readFile_of_notSpecial hk hread
  cases hnext
  exact hfin a u

/-- A store to a register, and whatever keeps PD after it. -/
theorem storeFile_pdFlag {fin : State → State} (hk : NotSpecial f s)
    (h : storeFile f v s (fun u => .next (fin u)) = .next t) (hfin : ∀ u, (fin u).pdFlag = u.pdFlag) :
    t.pdFlag = s.pdFlag := by
  obtain ⟨u, hwrite, hnext⟩ := storeFile_next h
  cases hnext
  rw [hfin, writeFile_pdFlag hk hwrite]

theorem storeDest_pdFlag {d : Dest} {fin : State → State} (hk : NotSpecial f s)
    (h : storeDest d f v s (fun u => .next (fin u)) = .next t) (hfin : ∀ u, (fin u).pdFlag = u.pdFlag) :
    t.pdFlag = s.pdFlag := by
  cases d with
  | w =>
    cases h
    exact hfin _
  | f => exact storeFile_pdFlag hk h hfin

/-- A read of a register, a store to the destination of a value made from what was read, and whatever keeps PD after it. -/
theorem readThenStore_pdFlag {d : Dest} {op : Byte → Byte} {fin : Byte → State → State} (hk : NotSpecial f s)
    (h : withFile f s (fun a u => storeDest d f (op a) u fun x => .next (fin a x)) = .next t)
    (hfin : ∀ a u, (fin a u).pdFlag = u.pdFlag) : t.pdFlag = s.pdFlag := by
  obtain ⟨a, u, hread, hstore⟩ := withFile_next h
  obtain rfl := readFile_of_notSpecial hk hread
  exact storeDest_pdFlag hk hstore (hfin a)

/-! ## The instructions -/

/-- Only CLRWDT and SLEEP write PD where no special register is touched. -/
theorem exec_pdFlag {i : Instr} (hs : ¬ TouchesSpecial i s) (hi : writesToPd i = false) (h : exec i s = .next t) :
    t.pdFlag = s.pdFlag := by
  have hk {f : Nat} : fileOperand i = some f → NotSpecial f s := notSpecial_of_operand hs
  cases i with
  | addwf f d | andwf f d | comf f d | decf f d | incf f d | iorwf f d | movf f d | rlf f d | rrf f d | subwf f d
  | swapf f d | xorwf f d => exact readThenStore_pdFlag (hk rfl) h fun _ _ => rfl
  | bcf f b | bsf f b => exact readThenStore_pdFlag (d := .f) (hk rfl) h fun _ _ => rfl
  | decfsz f d | incfsz f d => exact readThenStore_pdFlag (hk rfl) h fun _ u => skipWhen_pdFlag u _
  | btfsc f b | btfss f b => exact withFile_pdFlag (hk rfl) h fun _ u => skipWhen_pdFlag u _
  | clrf f | movwf f => exact storeFile_pdFlag (hk rfl) h fun _ => rfl
  | call k =>
    obtain ⟨-, rfl⟩ := pushAndJump_next h
    rfl
  | ret | retlw k | retfie =>
    obtain ⟨b, -, rfl⟩ := popToPc_next h
    rfl
  | addlw k | andlw k | iorlw k | movlw k | sublw k | xorlw k | clrw | goto k | nop =>
    cases h
    rfl
  | clrwdt | sleep => cases hi

end Sys2Proof.Proofs.PdFrame
end

section
/-! SUPPORT, and the proofs of O46 and O47. CLRWDT and NOP (45_system.md R220, R221): their words, and the only instruction
that sets PD. -/

namespace Sys2Proof.Proofs.System

open Sys2Proof Sys2Proof.Machine Sys2Proof.Proofs.Encoding Sys2Proof.Proofs.InstrWords Sys2Proof.Proofs.PdFrame

/-! ## The words -/

/-- The row of CLRWDT fixes all 14 bits. -/
theorem decode_eq_clrwdt_iff (w : InstrWord) : decode w = .instr .clrwdt ↔ w = 0x0064#14 := by
  rw [decode_eq_iff_of_row (r := opcodeRows[4]) (List.getElem_mem _) rfl]
  change w &&& BitVec.allOnes 14 = 0x0064#14 ∧ Instr.clrwdt = .clrwdt ↔ _
  rw [BitVec.and_allOnes, and_iff_left rfl]

/-- A word with no bit under a mask has none under a part of the mask. -/
theorem and_eq_zero_of_submask {w mask part : InstrWord} (hpart : mask &&& part = part) (h : w &&& mask = 0#14) :
    w &&& part = 0#14 := by
  rw [← hpart, ← BitVec.and_assoc, h, BitVec.zero_and]

/-- The mask of NOP leaves out bits 6 and 5: bits 13:7 are 0, and so are bits 4:0. -/
theorem toNat_of_nopMask {w : InstrWord} (h : w &&& 0x3F9F#14 = 0#14) : w.toNat / 128 * 128 = 0 ∧ w.toNat % 32 = 0 := by
  have hhigh : w &&& BitVec.allOnes 14 <<< 7 = 0#14 := and_eq_zero_of_submask rfl h
  have hlow : w &&& 0x001F#14 = 0#14 := and_eq_zero_of_submask rfl h
  refine ⟨(and_highMask_eq_iff w 0#14 7).mp hhigh, ?_⟩
  calc w.toNat % 32
      = w.toNat &&& 31 := (Nat.and_two_pow_sub_one_eq_mod w.toNat 5).symm
    _ = (w &&& 0x001F#14).toNat := (BitVec.toNat_and w 0x001F#14).symm
    _ = 0 := by rw [hlow]; rfl

/-- Bits 6 and 5 of NOP are don't-care bits. -/
theorem decode_eq_nop_iff (w : InstrWord) :
    decode w = .instr .nop ↔ w = 0x0000#14 ∨ w = 0x0020#14 ∨ w = 0x0040#14 ∨ w = 0x0060#14 := by
  constructor
  · intro h
    obtain ⟨hmatch, -⟩ := (decode_eq_iff_of_row (r := opcodeRows[0]) (List.getElem_mem _) rfl w).mp h
    obtain ⟨hhigh, hlow⟩ := toNat_of_nopMask hmatch
    have hwords : w.toNat = 0 ∨ w.toNat = 32 ∨ w.toNat = 64 ∨ w.toNat = 96 := by omega
    exact hwords.imp BitVec.eq_of_toNat_eq
      (.imp BitVec.eq_of_toNat_eq (.imp BitVec.eq_of_toNat_eq BitVec.eq_of_toNat_eq))
  · rintro (rfl | rfl | rfl | rfl) <;> rfl

/-! ## The only instruction that sets PD -/

theorem eq_of_writesToPd {i : Instr} (h : writesToPd i = true) : i = .clrwdt ∨ i = .sleep := by
  unfold writesToPd at h
  split at h
  · exact .inl rfl
  · exact .inr rfl
  · cases h

theorem exec_sleep_pdFlag {s t : State} (h : exec .sleep s = .next t) : t.pdFlag = false := by
  cases h
  rfl

theorem eq_clrwdt_of_sets_pdFlag {i : Instr} {s t : State} (hs : ¬ TouchesSpecial i s) (hpd : s.pdFlag = false)
    (h : exec i s = .next t) (hset : t.pdFlag = true) : i = .clrwdt := by
  cases hi : writesToPd i with
  | false => simp [exec_pdFlag hs hi h, hpd] at hset
  | true =>
    rcases eq_of_writesToPd hi with rfl | rfl
    · rfl
    · simp [exec_sleep_pdFlag h] at hset

/-- Settles O46: CLRWDT and SLEEP are the instructions that write PD outside the special registers, and SLEEP clears it. -/
theorem clrwdtResult : Obligations.ClrwdtResult :=
  fun _ => ⟨rfl, rfl, decode_eq_clrwdt_iff, fun _ _ => eq_clrwdt_of_sets_pdFlag⟩

/-- Settles O47: pc is all that NOP writes, and its words differ in their don't-care bits only. -/
theorem nopResult : Obligations.NopResult :=
  fun _ => ⟨rfl, rfl, rfl, decode_eq_nop_iff⟩

end Sys2Proof.Proofs.System
end

section
/-! SUPPORT, and the proofs of O1, O2, O4, O6 and O7. The encoder against the decoder (30_encoding.md sections 2, 3, 5, 6):
the fields of a word built by the encoder, the rows of the opcode map encoded back, and the words no row matches. -/

namespace Sys2Proof.Proofs.RoundTrip

open Sys2Proof Sys2Proof.Machine Sys2Proof.Laws Sys2Proof.Proofs.Encoding Sys2Proof.Proofs.InstrWords
  Sys2Proof.Proofs.System

section

variable {f b k : Nat} {d : Dest}

/-! ## The fields of an encoded word -/

theorem toNat_ofNat_field {n k : Nat} (hk : k < 2 ^ n) : (BitVec.ofNat n k).toNat = k := by
  rw [BitVec.toNat_ofNat, Nat.mod_eq_of_lt hk]

/-- Every format with an f operand ends in the seven bits of f. -/
theorem fOf_append (hf : fieldF f = true) (op : BitVec 7) : fOf (op ++ BitVec.ofNat 7 f) = f := by
  rw [fOf, BitVec.extractLsb'_append_eq_right, toNat_ofNat_field (of_decide_eq_true (p := f < 128) hf)]

theorem dOf_wordFD (op : BitVec 6) (d : Dest) (f : Nat) : dOf (wordFD op d f) = d := by
  have hbit : (wordFD op d f).getLsbD 7 = (dBit d).getLsbD 0 := by
    rw [wordFD, BitVec.getLsbD_append, if_neg (by decide), BitVec.getLsbD_append, if_pos (by decide)]
  rw [dOf, hbit]
  cases d <;> rfl

theorem bOf_wordFB (hb : fieldB b = true) (op : BitVec 4) (f : Nat) : bOf (wordFB op b f) = b := by
  rw [bOf, wordFB, BitVec.extractLsb'_append_eq_of_le (Nat.le_refl 7), BitVec.extractLsb'_append_eq_right,
    toNat_ofNat_field (of_decide_eq_true (p := b < 8) hb)]

theorem k8Of_wordK8 (hk : fieldK8 k = true) (op : BitVec 6) : k8Of (wordK8 op k) = k := by
  rw [k8Of, wordK8, BitVec.extractLsb'_append_eq_right, toNat_ofNat_field (Nat.lt_succ_of_le (of_decide_eq_true hk))]

theorem k11Of_wordK11 (hk : fieldK11 k = true) (op : BitVec 3) : k11Of (wordK11 op k) = k := by
  rw [k11Of, wordK11, BitVec.extractLsb'_append_eq_right, toNat_ofNat_field (Nat.lt_succ_of_le (of_decide_eq_true hk))]

/-! ## Decoding what was encoded -/

/-- The row of an instruction's mnemonic matches its canonical word, so decoding is what that row reads. -/
theorem decode_encode_of_position {i : Instr} {r : OpcodeRow} (n : Nat) (hn : opcodeRows[n]? = some r)
    (hm : r.mnemonic = rowMnemonic i) (hrow : EncodeRow.Statement i) (hbuild : r.build (encode i) = i) :
    decode (encode i) = .instr i := by
  obtain ⟨q, hq, hqm, hcovers⟩ := hrow
  obtain rfl : q = r := List.inj_on_of_nodup_map mnemonics_nodup hq (List.mem_of_getElem? hn) (hqm.trans hm.symm)
  rw [decode_of_row hq (eq_of_beq hcovers), hbuild]

/-! What the rows of each format read from a word of that format: the operands. -/

theorem read_wordFD (mk : Nat → Dest → Instr) (hf : fieldF f = true) (op : BitVec 6) (d : Dest) :
    mk (fOf (wordFD op d f)) (dOf (wordFD op d f)) = mk f d :=
  congrArg₂ mk (fOf_append hf _) (dOf_wordFD op d f)

theorem read_wordF (mk : Nat → Instr) (hf : fieldF f = true) (op : BitVec 7) : mk (fOf (wordF op f)) = mk f :=
  congrArg mk (fOf_append hf op)

theorem read_wordFB (mk : Nat → Nat → Instr) (h : (fieldF f && fieldB b) = true) (op : BitVec 4) :
    mk (fOf (wordFB op b f)) (bOf (wordFB op b f)) = mk f b := by
  obtain ⟨hf, hb⟩ := (Bool.and_eq_true ..).mp h
  exact congrArg₂ mk (fOf_append hf _) (bOf_wordFB hb op f)

theorem read_wordK8 (mk : Nat → Instr) (hk : fieldK8 k = true) (op : BitVec 6) : mk (k8Of (wordK8 op k)) = mk k :=
  congrArg mk (k8Of_wordK8 hk op)

theorem read_wordK11 (mk : Nat → Instr) (hk : fieldK11 k = true) (op : BitVec 3) : mk (k11Of (wordK11 op k)) = mk k :=
  congrArg mk (k11Of_wordK11 hk op)

end

/-- Settles O1: the canonical word lies in the instruction's own row, and the fields the row reads are the operands. -/
theorem decodeInvertsEncode : Obligations.DecodeInvertsEncode := by
  intro i h
  cases i with
  | nop | ret | retfie | sleep | clrwdt | clrw => rfl
  | movwf f => exact decode_encode_of_position 5 rfl rfl (EncodeRow.movwf f) (read_wordF .movwf h _)
  | clrf f => exact decode_encode_of_position 7 rfl rfl (EncodeRow.clrf f) (read_wordF .clrf h _)
  | subwf f d => exact decode_encode_of_position 8 rfl rfl (EncodeRow.subwf f d) (read_wordFD .subwf h _ d)
  | decf f d => exact decode_encode_of_position 9 rfl rfl (EncodeRow.decf f d) (read_wordFD .decf h _ d)
  | iorwf f d => exact decode_encode_of_position 10 rfl rfl (EncodeRow.iorwf f d) (read_wordFD .iorwf h _ d)
  | andwf f d => exact decode_encode_of_position 11 rfl rfl (EncodeRow.andwf f d) (read_wordFD .andwf h _ d)
  | xorwf f d => exact decode_encode_of_position 12 rfl rfl (EncodeRow.xorwf f d) (read_wordFD .xorwf h _ d)
  | addwf f d => exact decode_encode_of_position 13 rfl rfl (EncodeRow.addwf f d) (read_wordFD .addwf h _ d)
  | movf f d => exact decode_encode_of_position 14 rfl rfl (EncodeRow.movf f d) (read_wordFD .movf h _ d)
  | comf f d => exact decode_encode_of_position 15 rfl rfl (EncodeRow.comf f d) (read_wordFD .comf h _ d)
  | incf f d => exact decode_encode_of_position 16 rfl rfl (EncodeRow.incf f d) (read_wordFD .incf h _ d)
  | decfsz f d => exact decode_encode_of_position 17 rfl rfl (EncodeRow.decfsz f d) (read_wordFD .decfsz h _ d)
  | rrf f d => exact decode_encode_of_position 18 rfl rfl (EncodeRow.rrf f d) (read_wordFD .rrf h _ d)
  | rlf f d => exact decode_encode_of_position 19 rfl rfl (EncodeRow.rlf f d) (read_wordFD .rlf h _ d)
  | swapf f d => exact decode_encode_of_position 20 rfl rfl (EncodeRow.swapf f d) (read_wordFD .swapf h _ d)
  | incfsz f d => exact decode_encode_of_position 21 rfl rfl (EncodeRow.incfsz f d) (read_wordFD .incfsz h _ d)
  | bcf f b => exact decode_encode_of_position 22 rfl rfl (EncodeRow.bcf f b) (read_wordFB .bcf h _)
  | bsf f b => exact decode_encode_of_position 23 rfl rfl (EncodeRow.bsf f b) (read_wordFB .bsf h _)
  | btfsc f b => exact decode_encode_of_position 24 rfl rfl (EncodeRow.btfsc f b) (read_wordFB .btfsc h _)
  | btfss f b => exact decode_encode_of_position 25 rfl rfl (EncodeRow.btfss f b) (read_wordFB .btfss h _)
  | call k => exact decode_encode_of_position 26 rfl rfl (EncodeRow.call k) (read_wordK11 .call h _)
  | goto k => exact decode_encode_of_position 27 rfl rfl (EncodeRow.goto k) (read_wordK11 .goto h _)
  | movlw k => exact decode_encode_of_position 28 rfl rfl (EncodeRow.movlw k) (read_wordK8 .movlw h _)
  | retlw k => exact decode_encode_of_position 29 rfl rfl (EncodeRow.retlw k) (read_wordK8 .retlw h _)
  | iorlw k => exact decode_encode_of_position 30 rfl rfl (EncodeRow.iorlw k) (read_wordK8 .iorlw h _)
  | andlw k => exact decode_encode_of_position 31 rfl rfl (EncodeRow.andlw k) (read_wordK8 .andlw h _)
  | xorlw k => exact decode_encode_of_position 32 rfl rfl (EncodeRow.xorlw k) (read_wordK8 .xorlw h _)
  | sublw k => exact decode_encode_of_position 33 rfl rfl (EncodeRow.sublw k) (read_wordK8 .sublw h _)
  | addlw k => exact decode_encode_of_position 34 rfl rfl (EncodeRow.addlw k) (read_wordK8 .addlw h _)

/-! ## Encoding what was decoded -/

/-- A word a pattern matches is its fixed bits and its field of `n` bits, but for the don't-care bits, the bits of neither. -/
theorem append_field_eq_and_not {m n : Nat} (hmn : m + n = 14) (op : BitVec m) {w mask value dc : InstrWord}
    (hmatch : w &&& mask = value) (hvalue : value = (op ++ 0#n).cast hmn)
    (hbits : mask ||| ((0#m) ++ BitVec.allOnes n).cast hmn = ~~~dc) :
    (op ++ w.extractLsb' 0 n).cast hmn = w &&& ~~~dc := by
  have hfixed : (op ++ 0#n).cast hmn = w &&& mask := by rw [hmatch, hvalue]
  have hsplit : (op ++ w.extractLsb' 0 n).cast hmn
      = (op ++ 0#n).cast hmn ||| (w &&& ((0#m) ++ BitVec.allOnes n).cast hmn) := by
    ext i hi
    simp only [BitVec.getElem_cast, BitVec.getElem_append, BitVec.getElem_or, BitVec.getElem_and]
    split <;> simp [BitVec.getLsbD_eq_getElem, hi]
  rw [hsplit, hfixed, ← hbits]
  ext i hi
  simp only [BitVec.getElem_or, BitVec.getElem_and, Bool.and_or_distrib_left]

/-- What the row reads from a word is well-formed and encodes to the word without its don't-care bits. -/
def EncodesBack (r : OpcodeRow) : Prop :=
  ∀ w : InstrWord, w &&& r.mask = r.value →
    wellFormed (r.build w) = true ∧ encode (r.build w) = w &&& ~~~ (dontCareMask (r.build w))

theorem ofNat_toNat_field {n : Nat} (x : BitVec n) : BitVec.ofNat n x.toNat = x := by
  rw [BitVec.ofNat_toNat, BitVec.setWidth_eq]

theorem dBit_dOf (w : InstrWord) : dBit (dOf w) = w.extractLsb' 7 1 := by
  have hbit : w.extractLsb' 7 1 = BitVec.ofBool (w.getLsbD 7) := by
    ext i hi
    obtain rfl : i = 0 := by omega
    simp
  rw [hbit, dOf]
  cases w.getLsbD 7 <;> rfl

theorem fieldF_fOf (w : InstrWord) : fieldF (fOf w) = true := decide_eq_true (BitVec.isLt _)

theorem fieldB_bOf (w : InstrWord) : fieldB (bOf w) = true := decide_eq_true (BitVec.isLt _)

theorem fieldK8_k8Of (w : InstrWord) : fieldK8 (k8Of w) = true := decide_eq_true (Nat.le_of_lt_succ (BitVec.isLt _))

theorem fieldK11_k11Of (w : InstrWord) : fieldK11 (k11Of w) = true := decide_eq_true (Nat.le_of_lt_succ (BitVec.isLt _))

/-- d and f lie side by side and make one field of eight bits. -/
theorem wordFD_fields (op : BitVec 6) (w : InstrWord) : wordFD op (dOf w) (fOf w) = op ++ w.extractLsb' 0 8 := by
  rw [wordFD, dBit_dOf, fOf, ofNat_toNat_field, BitVec.append_assoc,
    BitVec.extractLsb'_append_extractLsb'_eq_extractLsb' (Nat.zero_add 7).symm]
  rfl

/-- b and f lie side by side and make one field of ten bits. -/
theorem wordFB_fields (op : BitVec 4) (w : InstrWord) : wordFB op (bOf w) (fOf w) = op ++ w.extractLsb' 0 10 := by
  rw [wordFB, bOf, fOf, ofNat_toNat_field, ofNat_toNat_field, BitVec.append_assoc,
    BitVec.extractLsb'_append_extractLsb'_eq_extractLsb' (Nat.zero_add 7).symm]
  rfl

section

variable {r : OpcodeRow}

theorem encodesBack_of_value {i : Instr} (hbuild : r.build = fun _ => i) (hwf : wellFormed i = true)
    (hvalue : encode i = r.value) (hbits : r.mask = ~~~ (dontCareMask i)) : EncodesBack r := by
  intro w hmatch
  rw [hbuild]
  exact ⟨hwf, by rw [hvalue, ← hmatch, hbits]⟩

theorem encodesBack_of_FD (mk : Nat → Dest → Instr) (op : BitVec 6) (hbuild : r.build = fun w => mk (fOf w) (dOf w))
    (hwf : ∀ f d, wellFormed (mk f d) = fieldF f) (henc : ∀ f d, encode (mk f d) = wordFD op d f)
    (hdc : ∀ f d, dontCareMask (mk f d) = 0) (hvalue : r.value = op ++ 0#8) (hmask : r.mask = BitVec.allOnes 14 <<< 8) :
    EncodesBack r := by
  intro w hmatch
  rw [hbuild, hwf, henc, hdc, wordFD_fields]
  exact ⟨fieldF_fOf w, append_field_eq_and_not rfl op hmatch hvalue (by rw [hmask]; rfl)⟩

theorem encodesBack_of_F (mk : Nat → Instr) (op : BitVec 7) (hbuild : r.build = fun w => mk (fOf w))
    (hwf : ∀ f, wellFormed (mk f) = fieldF f) (henc : ∀ f, encode (mk f) = wordF op f)
    (hdc : ∀ f, dontCareMask (mk f) = 0) (hvalue : r.value = op ++ 0#7) (hmask : r.mask = BitVec.allOnes 14 <<< 7) :
    EncodesBack r := by
  intro w hmatch
  rw [hbuild, hwf, henc, hdc, wordF, fOf, ofNat_toNat_field]
  exact ⟨fieldF_fOf w, append_field_eq_and_not rfl op hmatch hvalue (by rw [hmask]; rfl)⟩

theorem encodesBack_of_FB (mk : Nat → Nat → Instr) (op : BitVec 4) (hbuild : r.build = fun w => mk (fOf w) (bOf w))
    (hwf : ∀ f b, wellFormed (mk f b) = (fieldF f && fieldB b)) (henc : ∀ f b, encode (mk f b) = wordFB op b f)
    (hdc : ∀ f b, dontCareMask (mk f b) = 0) (hvalue : r.value = op ++ 0#10) (hmask : r.mask = BitVec.allOnes 14 <<< 10) :
    EncodesBack r := by
  intro w hmatch
  rw [hbuild, hwf, henc, hdc, wordFB_fields, fieldF_fOf, fieldB_bOf]
  exact ⟨rfl, append_field_eq_and_not rfl op hmatch hvalue (by rw [hmask]; rfl)⟩

theorem encodesBack_of_K8 (mk : Nat → Instr) (op : BitVec 6) {dc : InstrWord} (hbuild : r.build = fun w => mk (k8Of w))
    (hwf : ∀ k, wellFormed (mk k) = fieldK8 k) (henc : ∀ k, encode (mk k) = wordK8 op k)
    (hdc : ∀ k, dontCareMask (mk k) = dc) (hvalue : r.value = op ++ 0#8) (hbits : r.mask ||| 0x00FF#14 = ~~~dc) :
    EncodesBack r := by
  intro w hmatch
  rw [hbuild, hwf, henc, hdc, wordK8, k8Of, ofNat_toNat_field]
  exact ⟨fieldK8_k8Of w, append_field_eq_and_not rfl op hmatch hvalue hbits⟩

theorem encodesBack_of_K11 (mk : Nat → Instr) (op : BitVec 3) (hbuild : r.build = fun w => mk (k11Of w))
    (hwf : ∀ k, wellFormed (mk k) = fieldK11 k) (henc : ∀ k, encode (mk k) = wordK11 op k)
    (hdc : ∀ k, dontCareMask (mk k) = 0) (hvalue : r.value = op ++ 0#11) (hmask : r.mask = BitVec.allOnes 14 <<< 11) :
    EncodesBack r := by
  intro w hmatch
  rw [hbuild, hwf, henc, hdc, wordK11, k11Of, ofNat_toNat_field]
  exact ⟨fieldK11_k11Of w, append_field_eq_and_not rfl op hmatch hvalue (by rw [hmask]; rfl)⟩

end

theorem rowsPlain_encode_back : ∀ r ∈ opcodeRowsPlain, EncodesBack r := by
  simp only [opcodeRowsPlain, List.forall_mem_cons, List.not_mem_nil, false_imp_iff, implies_true, and_true]
  have hnone {r : OpcodeRow} {i : Instr} := @encodesBack_of_value r i
  exact ⟨hnone rfl rfl rfl rfl, hnone rfl rfl rfl rfl, hnone rfl rfl rfl rfl, hnone rfl rfl rfl rfl, hnone rfl rfl rfl rfl,
    encodesBack_of_F .movwf 0b0000001 rfl (fun _ => rfl) (fun _ => rfl) (fun _ => rfl) rfl rfl, hnone rfl rfl rfl rfl,
    encodesBack_of_F .clrf 0b0000011 rfl (fun _ => rfl) (fun _ => rfl) (fun _ => rfl) rfl rfl⟩

theorem rowsFD_encode_back : ∀ r ∈ opcodeRowsFD, EncodesBack r := by
  simp only [opcodeRowsFD, List.forall_mem_cons, List.not_mem_nil, false_imp_iff, implies_true, and_true]
  refine ⟨?_, ?_, ?_, ?_, ?_, ?_, ?_, ?_, ?_, ?_, ?_, ?_, ?_, ?_⟩
  all_goals exact encodesBack_of_FD _ _ rfl (fun _ _ => rfl) (fun _ _ => rfl) (fun _ _ => rfl) rfl rfl

theorem rowsBitLiteral_encode_back : ∀ r ∈ opcodeRowsBitLiteral, EncodesBack r := by
  simp only [opcodeRowsBitLiteral, List.forall_mem_cons, List.not_mem_nil, false_imp_iff, implies_true, and_true]
  refine ⟨?bcf, ?bsf, ?btfsc, ?btfss, ?call, ?goto, ?movlw, ?retlw, ?iorlw, ?andlw, ?xorlw, ?sublw, ?addlw⟩
  case bcf | bsf | btfsc | btfss =>
    exact encodesBack_of_FB _ _ rfl (fun _ _ => rfl) (fun _ _ => rfl) (fun _ _ => rfl) rfl rfl
  case call | goto => exact encodesBack_of_K11 _ _ rfl (fun _ => rfl) (fun _ => rfl) (fun _ => rfl) rfl rfl
  all_goals exact encodesBack_of_K8 _ _ rfl (fun _ => rfl) (fun _ => rfl) (fun _ => rfl) rfl rfl

theorem rows_encode_back {r : OpcodeRow} (hr : r ∈ opcodeRows) : EncodesBack r := by
  rcases List.mem_append.mp hr with hr | hr
  · rcases List.mem_append.mp hr with hr | hr
    · exact rowsPlain_encode_back r hr
    · exact rowsFD_encode_back r hr
  · exact rowsBitLiteral_encode_back r hr

/-- Settles O2: the word is the fixed bits of its row, the fields that the row reads, and don't-care bits. -/
theorem encodeOfDecodeClearsDontCareBits : Obligations.EncodeOfDecodeClearsDontCareBits := by
  intro w i h
  obtain ⟨r, hr, hmatch, rfl⟩ := exists_row_of_decode h
  exact rows_encode_back hr w hmatch

/-! ## The tree and the table -/

/-- Settles O4: the first row that matches a word is the one through which the tree answers. -/
theorem decisionTreeEqualsOpcodeTable : Obligations.DecisionTreeEqualsOpcodeTable := by
  intro w
  unfold decodeByRows
  split
  next r hfind =>
    have hcovers : r.covers w = true := List.find?_some (p := fun r : OpcodeRow => r.covers w) hfind
    exact decode_of_row (List.mem_of_find?_eq_some hfind) (eq_of_beq hcovers)
  next hfind =>
    cases hd : decode w with
    | illegalEncoding => rfl
    | instr i =>
      obtain ⟨r, hr, hmatch, -⟩ := exists_row_of_decode hd
      exact absurd (beq_iff_eq.mpr hmatch) (List.find?_eq_none.mp hfind r hr)

/-! ## The words no row matches -/

section

variable {w : InstrWord}

theorem eq_iff_toNat {v : InstrWord} : w = v ↔ w.toNat = v.toNat := BitVec.toNat_inj.symm

/-- The mask of NOP, as the words it matches. -/
theorem and_nopMask_eq_zero_iff : w &&& 0x3F9F#14 = 0 ↔
    w.toNat = 0 ∨ w.toNat = 0x20 ∨ w.toNat = 0x40 ∨ w.toNat = 0x60 :=
  calc w &&& 0x3F9F#14 = 0
    _ ↔ w &&& 0x3F9F#14 = 0 ∧ Instr.nop = .nop := (and_iff_left rfl).symm
    _ ↔ decode w = .instr .nop := (decode_eq_iff_of_row (r := opcodeRows[0]) (List.getElem_mem _) rfl w).symm
    _ ↔ w = 0x0000#14 ∨ w = 0x0020#14 ∨ w = 0x0040#14 ∨ w = 0x0060#14 := decode_eq_nop_iff w
    _ ↔ _ := or_congr eq_iff_toNat (or_congr eq_iff_toNat (or_congr eq_iff_toNat eq_iff_toNat))

theorem decodeGroup0_eq_illegal_iff (hw : w.toNat / 256 = 0) : decodeGroup0 w = .illegalEncoding ↔
    w.toNat < 0x80 ∧ ¬ (w.toNat = 0 ∨ w.toNat = 0x20 ∨ w.toNat = 0x40 ∨ w.toNat = 0x60) ∧
      ¬ w.toNat = 0x08 ∧ ¬ w.toNat = 0x09 ∧ ¬ w.toNat = 0x63 ∧ ¬ w.toNat = 0x64 := by
  have hhigh : ¬ w.getLsbD 7 = true ↔ w.toNat < 0x80 := by
    rw [getLsbD_iff]
    omega
  rw [← hhigh, ← and_nopMask_eq_zero_iff]
  unfold decodeGroup0
  split_ifs <;> simp_all [eq_iff_toNat]

theorem decodeGroup1_eq_illegal_iff (hw : w.toNat / 256 = 1) : decodeGroup1 w = .illegalEncoding ↔
    w.toNat < 0x180 ∧ ¬ w.toNat = 0x103 := by
  have hhigh : ¬ w.getLsbD 7 = true ↔ w.toNat < 0x180 := by
    rw [getLsbD_iff]
    omega
  rw [← hhigh]
  unfold decodeGroup1
  split_ifs <;> simp_all [eq_iff_toNat]

/-- Under bits 13:12 = `00` only the words with bits 11:8 = `0000` and `0001` may be unassigned. -/
theorem decodeRegister_eq_illegal_iff (hw : w.toNat / 4096 = 0) : decodeRegister w = .illegalEncoding ↔
    (w.toNat / 256 = 0 ∧ decodeGroup0 w = .illegalEncoding) ∨ (w.toNat / 256 = 1 ∧ decodeGroup1 w = .illegalEncoding) := by
  have hfield : (w.extractLsb' 8 4).toNat = w.toNat / 256 := by
    rw [toNat_field]
    omega
  unfold decodeRegister
  rw [hfield]
  generalize w.toNat / 256 = n
  split <;> simp_all

theorem decodeBit_ne_illegal (w : InstrWord) : decodeBit w ≠ .illegalEncoding := by
  unfold decodeBit
  split <;> simp

theorem decodeTransfer_ne_illegal (w : InstrWord) : decodeTransfer w ≠ .illegalEncoding := by
  unfold decodeTransfer
  split <;> simp

theorem decodeLiteral_eq_illegal_iff (hw : w.toNat / 4096 = 3) :
    decodeLiteral w = .illegalEncoding ↔ w.toNat / 256 = 0x3B := by
  have hfield := toNat_field w 8 4
  have hrow : w.toNat / 256 = 0x3B ↔ (w.extractLsb' 8 4).toNat = 11 := by omega
  rw [hrow]
  unfold decodeLiteral
  generalize (w.extractLsb' 8 4).toNat = n
  split <;> simp_all

/-- The unassigned words, branch by branch of the decision tree. -/
theorem decode_eq_illegal_iff (w : InstrWord) : decode w = .illegalEncoding ↔
    (w.toNat / 256 = 0 ∧ decodeGroup0 w = .illegalEncoding) ∨ (w.toNat / 256 = 1 ∧ decodeGroup1 w = .illegalEncoding) ∨
      w.toNat / 256 = 0x3B := by
  have hfield := toNat_field w 12 2
  have hlt := w.isLt
  unfold decode
  generalize (w.extractLsb' 12 2).toNat = n at hfield ⊢
  match n with
  | 0 =>
    have hliteral : w.toNat / 256 ≠ 0x3B := by omega
    refine (decodeRegister_eq_illegal_iff (by omega)).trans ?_
    rw [or_iff_left hliteral]
  | 1 => exact iff_of_false (decodeBit_ne_illegal w) (by rintro (⟨h, -⟩ | ⟨h, -⟩ | h) <;> omega)
  | 2 => exact iff_of_false (decodeTransfer_ne_illegal w) (by rintro (⟨h, -⟩ | ⟨h, -⟩ | h) <;> omega)
  | 3 =>
    have hgroup0 : w.toNat / 256 ≠ 0 := by omega
    have hgroup1 : w.toNat / 256 ≠ 1 := by omega
    simp only [decodeLiteral_eq_illegal_iff (w := w) (by omega), hgroup0, hgroup1, false_and, false_or]
  | n + 4 => omega

end

/-- Settles O6: the tree answers nothing in the two groups of single words and under bits 13:8 = `111011` only. -/
theorem unassignedWordsAreTheListedRanges : Obligations.UnassignedWordsAreTheListedRanges := by
  intro w
  rw [decode_eq_illegal_iff, and_congr_right decodeGroup0_eq_illegal_iff, and_congr_right decodeGroup1_eq_illegal_iff]
  omega

/-- Settles O7: each word is decoded along the tree. -/
theorem exampleWordsDecode : Obligations.ExampleWordsDecode := by
  unfold Obligations.ExampleWordsDecode
  decide

end Sys2Proof.Proofs.RoundTrip
end

section
/-! SUPPORT. What an instruction that completes has done, said once: the accesses to its f register and the state they leave,
then W, the flags and pc (20_memory.md R70, R80, 10_state.md R26, R30), and the same for the instructions without an f operand. -/

namespace Sys2Proof.Proofs.Effects

open Sys2Proof Sys2Proof.Machine Sys2Proof.Proofs.PdFrame

variable {s t u : State} {f : Nat} {v a : Byte} {i : Instr} {d : Dest}

/-! ## The accesses to an f register -/

theorem accessed_keeps (h : Accessed f s u) : Keeps s u := by
  rcases h with ⟨a, hread⟩ | ⟨v, hwrite⟩ | ⟨a, x, v, hread, hwrite⟩
  · exact readFile_keeps hread
  · exact writeFile_keeps hwrite
  · exact (readFile_keeps hread).trans (writeFile_keeps hwrite)

/-- No access but to a general register reaches pc, the stack, the watchdog or the sleep. -/
theorem accessed_frame (hg : ∀ id, fileKind f s.par ≠ .special (.general id)) (h : Accessed f s u) :
    u.pc = s.pc ∧ u.stack = s.stack ∧ u.wdt = s.wdt ∧ u.wdtps = s.wdtps ∧ u.sleeping = s.sleeping := by
  rcases h with ⟨a, hread⟩ | ⟨v, hwrite⟩ | ⟨a, x, v, hread, hwrite⟩
  · rw [readFile_frame hg hread]
    exact ⟨rfl, rfl, rfl, rfl, rfl⟩
  · obtain ⟨-, hpc, hstack, hwdt, hwdtps, hsleep, -⟩ := writeFile_frame hg hwrite
    exact ⟨hpc, hstack, hwdt, hwdtps, hsleep⟩
  · rw [readFile_frame hg hread] at hwrite
    obtain ⟨-, hpc, hstack, hwdt, hwdtps, hsleep, -⟩ := writeFile_frame (s := { s with device := x.device }) hg hwrite
    exact ⟨hpc, hstack, hwdt, hwdtps, hsleep⟩

theorem writeFile_of_notSpecial (hk : NotSpecial f s) (h : writeFile f v s = some t) : t = { s with mem := t.mem } := by
  cases hkind : fileKind f s.par with
  | plain =>
    rw [writeFile_plain hkind] at h
    cases h
    rfl
  | special r => exact absurd hkind (hk r)
  | unmapped =>
    rw [writeFile_unmapped hkind] at h
    cases h

/-- No access but to a special register reaches anything but the f registers. -/
theorem accessed_of_notSpecial (hk : NotSpecial f s) (h : Accessed f s u) : u = { s with mem := u.mem } := by
  rcases h with ⟨a, hread⟩ | ⟨v, hwrite⟩ | ⟨a, x, v, hread, hwrite⟩
  · rw [readFile_of_notSpecial hk hread]
  · exact writeFile_of_notSpecial hk hwrite
  · obtain rfl := readFile_of_notSpecial hk hread
    exact writeFile_of_notSpecial hk hwrite

/-! ## The shapes of a meaning -/

theorem skipWhen_eq (cond : Bool) (s : State) :
    s.skipWhen cond = { s with pc := if cond then s.pc + 2 else s.pc + 1 } := by
  cases cond <;> rfl

/-- A read and then a store to the destination: an access, then W or not, then what is done at the end. -/
theorem readThenStore_next {op : Byte → Byte} {fin : Byte → State → State}
    (h : withFile f s (fun a x => storeDest d f (op a) x fun y => .next (fin a y)) = .next t) :
    ∃ a x u v, readFile f s = some (a, x) ∧ Accessed f s u ∧ t = fin a (u.setW v) := by
  obtain ⟨a, x, hread, hstore⟩ := withFile_next h
  rcases storeDest_next hstore with ⟨-, hnext⟩ | ⟨-, u, hwrite, hnext⟩
  · exact ⟨a, x, x, op a, hread, .inl ⟨a, hread⟩, (Host.Outcome.next.inj hnext).symm⟩
  · exact ⟨a, x, u, u.w, hread, .inr (.inr ⟨a, x, op a, hread, hwrite⟩), (Host.Outcome.next.inj hnext).symm⟩

theorem store_next {fin : State → State} (h : storeFile f v s (fun y => .next (fin y)) = .next t) :
    ∃ u, Accessed f s u ∧ t = fin u := by
  obtain ⟨u, hwrite, hnext⟩ := storeFile_next h
  exact ⟨u, .inr (.inl ⟨v, hwrite⟩), (Host.Outcome.next.inj hnext).symm⟩

theorem read_next {fin : Byte → State → State} (h : withFile f s (fun a x => .next (fin a x)) = .next t) :
    ∃ a u, readFile f s = some (a, u) ∧ Accessed f s u ∧ t = fin a u := by
  obtain ⟨a, u, hread, hnext⟩ := withFile_next h
  exact ⟨a, u, hread, .inl ⟨a, hread⟩, (Host.Outcome.next.inj hnext).symm⟩

/-! ## The instructions with an f operand -/

/-- The byte read from f makes the instruction skip (43_skip.md R181 to R184). -/
def skipsOn : Instr → Byte → Bool
  | .btfsc _ b, a => !a.getLsbD b
  | .btfss _ b, a => a.getLsbD b
  | .decfsz _ _, a => zeroFlag (a - 1#8)
  | .incfsz _ _, a => zeroFlag (a + 1#8)
  | _, _ => false

/-- An instruction with the operand `f` takes `s` to `t`: its accesses leave `u`, then W, the flags of its row of R30 and pc are
written. -/
structure FileEffect (i : Instr) (f : Nat) (s u t : State) : Prop where
  accessed : Accessed f s u
  result : t = { u with w := t.w, c := t.c, dc := t.dc, z := t.z, pc := t.pc }
  carry : writesAllArith i = false → writesCOnly i = false → t.c = u.c
  digitCarry : writesAllArith i = false → t.dc = u.dc
  zero : writesAllArith i = false → writesZOnly i = false → t.z = u.z
  sequence : isSkip i = false → t.pc = u.pc + 1
  skip : isSkip i = true →
    ∃ a x, readFile f s = some (a, x) ∧ t.pc = if skipsOn i a then u.pc + 2 else u.pc + 1

theorem exec_fileEffect (hf : fileOperand i = some f) (h : exec i s = .next t) : ∃ u, FileEffect i f s u t := by
  cases i with
  | addwf g d | subwf g d =>
    cases hf
    obtain ⟨a, x, u, v, -, hacc, rfl⟩ := readThenStore_next h
    exact ⟨u, hacc, rfl, nofun, nofun, nofun, fun _ => rfl, nofun⟩
  | andwf g d | comf g d | decf g d | incf g d | iorwf g d | movf g d | xorwf g d =>
    cases hf
    obtain ⟨a, x, u, v, -, hacc, rfl⟩ := readThenStore_next h
    exact ⟨u, hacc, rfl, fun _ _ => rfl, fun _ => rfl, fun _ => nofun, fun _ => rfl, nofun⟩
  | rlf g d | rrf g d =>
    cases hf
    obtain ⟨a, x, u, v, -, hacc, rfl⟩ := readThenStore_next h
    exact ⟨u, hacc, rfl, fun _ => nofun, fun _ => rfl, fun _ _ => rfl, fun _ => rfl, nofun⟩
  | swapf g d =>
    cases hf
    obtain ⟨a, x, u, v, -, hacc, rfl⟩ := readThenStore_next h
    exact ⟨u, hacc, rfl, fun _ _ => rfl, fun _ => rfl, fun _ _ => rfl, fun _ => rfl, nofun⟩
  | bcf g b | bsf g b =>
    cases hf
    obtain ⟨a, x, u, v, -, hacc, rfl⟩ := readThenStore_next (d := .f) h
    exact ⟨u, hacc, rfl, fun _ _ => rfl, fun _ => rfl, fun _ _ => rfl, fun _ => rfl, nofun⟩
  | clrf g =>
    cases hf
    obtain ⟨u, hacc, rfl⟩ := store_next h
    exact ⟨u, hacc, rfl, fun _ _ => rfl, fun _ => rfl, fun _ => nofun, fun _ => rfl, nofun⟩
  | movwf g =>
    cases hf
    obtain ⟨u, hacc, rfl⟩ := store_next h
    exact ⟨u, hacc, rfl, fun _ _ => rfl, fun _ => rfl, fun _ _ => rfl, fun _ => rfl, nofun⟩
  | decfsz g d | incfsz g d =>
    cases hf
    obtain ⟨a, x, u, v, hread, hacc, rfl⟩ := readThenStore_next h
    rw [skipWhen_eq]
    exact ⟨u, hacc, rfl, fun _ _ => rfl, fun _ => rfl, fun _ _ => rfl, nofun, fun _ => ⟨a, x, hread, rfl⟩⟩
  | btfsc g b | btfss g b =>
    cases hf
    obtain ⟨a, u, hread, hacc, rfl⟩ := read_next h
    rw [skipWhen_eq]
    exact ⟨u, hacc, rfl, fun _ _ => rfl, fun _ => rfl, fun _ _ => rfl, nofun, fun _ => ⟨a, u, hread, rfl⟩⟩
  | _ => cases hf

/-- What the accesses keep the instruction keeps: it writes none of it after them. -/
theorem FileEffect.keeps (h : FileEffect i f s u t) : Keeps s t := by
  have hkeeps : Keeps s u := accessed_keeps h.accessed
  rw [h.result]
  exact hkeeps

theorem notGeneral_of_operand (h : ¬ TouchesGeneral i s) (hf : fileOperand i = some f) (id : Nat) :
    fileKind f s.par ≠ .special (.general id) :=
  fun hk => h ⟨f, id, hf, hk⟩

/-- Only a general register's own functions move pc while f is accessed. -/
theorem FileEffect.pc_of_notGeneral (h : FileEffect i f s u t) (hf : fileOperand i = some f) (hg : ¬ TouchesGeneral i s) :
    u.pc = s.pc :=
  (accessed_frame (notGeneral_of_operand hg hf) h.accessed).1

/-- The pc after a skip, for the byte that the register reads as. -/
theorem FileEffect.pc_of_read {a : Byte} {x : State} (h : FileEffect i f s u t) (hi : isSkip i = true)
    (hread : readFile f s = some (a, x)) : t.pc = if skipsOn i a then u.pc + 2 else u.pc + 1 := by
  obtain ⟨a', x', hread', hpc⟩ := h.skip hi
  cases hread.symm.trans hread'
  exact hpc

/-! ## The instructions without an f operand -/

/-- An instruction without an f operand takes `s` to `t`: the rest of the state is as before, but for what its row names. -/
structure CoreEffect (i : Instr) (s t : State) : Prop where
  carry : writesAllArith i = false → t.c = s.c
  digitCarry : writesAllArith i = false → t.dc = s.dc
  zero : writesAllArith i = false → writesZOnly i = false → t.z = s.z
  power : writesToPd i = false → t.toFlag = s.toFlag ∧ t.pdFlag = s.pdFlag
  watchdog : writesToPd i = false → t.wdt = s.wdt ∧ t.wdtps = s.wdtps
  sleeping : i ≠ .sleep → t.sleeping = s.sleeping
  stack : reachesStack i = false → t.stack = s.stack
  gie : i ≠ .retfie → t.gie = s.gie
  rest : t.pclatch = s.pclatch ∧ t.irq = s.irq ∧ t.device = s.device
  sequence : isTransfer i = false → t.pc = s.pc + 1

theorem exec_coreEffect (hf : fileOperand i = none) (h : exec i s = .next t) : CoreEffect i s t := by
  cases i with
  | addlw k | andlw k | clrw | clrwdt | goto k | iorlw k | movlw k | nop | sleep | sublw k | xorlw k =>
    cases h
    constructor <;> simp [writesAllArith, writesZOnly, writesToPd, isTransfer]
  | call k =>
    obtain ⟨-, rfl⟩ := pushAndJump_next h
    constructor <;> simp [reachesStack, isTransfer]
  | ret | retlw k | retfie =>
    obtain ⟨b, -, rfl⟩ := popToPc_next h
    constructor <;> simp [reachesStack, isTransfer]
  | _ => cases hf

/-- Every instruction keeps what every access keeps: PROG, the parameters, the schedule, the draws, and the form of the f registers
and of the stack. -/
theorem exec_keeps (h : exec i s = .next t) : Keeps s t := by
  cases hf : fileOperand i with
  | some f =>
    obtain ⟨u, heff⟩ := exec_fileEffect hf h
    exact heff.keeps
  | none =>
    cases i with
    | addlw k | andlw k | clrw | clrwdt | goto k | iorlw k | movlw k | nop | sleep | sublw k | xorlw k =>
      cases h
      exact ⟨rfl, rfl, rfl, rfl, id, id⟩
    | call k =>
      obtain ⟨hroom, rfl⟩ := pushAndJump_next h
      exact ⟨rfl, rfl, rfl, rfl, id, fun _ => by simpa using hroom⟩
    | ret | retlw k | retfie =>
      obtain ⟨b, -, rfl⟩ := popToPc_next h
      exact ⟨rfl, rfl, rfl, rfl, id, fun hdepth => by simpa using hdepth.trans' (Nat.sub_le _ 1)⟩
    | _ => cases hf

end Sys2Proof.Proofs.Effects
end

section
/-! SUPPORT, and the proofs of O36 and O39. The results and flags of the byte operations as numbers and as bits
(40_byte_oriented.md section 1 and R123 to R137, 41_bit_oriented.md R151 to R153). -/

namespace Sys2Proof.Proofs.Arithmetic

open Sys2Proof Sys2Proof.Machine Sys2Proof.Proofs.AddFlags Sys2Proof.Proofs.Literal

variable (a m x : Byte) (c v : Bool) (b j : Nat)

/-! ## Results -/

theorem add_eq_ofNat : a + x = BitVec.ofNat 8 (a.toNat + x.toNat) := by
  rw [BitVec.ofNat_add, BitVec.ofNat_toNat, BitVec.ofNat_toNat, BitVec.setWidth_eq, BitVec.setWidth_eq]

theorem sub_eq_ofNat : m - x = BitVec.ofNat 8 (m.toNat + 256 - x.toNat) := by
  have hm := m.isLt
  have hx := x.isLt
  apply BitVec.eq_of_toNat_eq
  rw [BitVec.toNat_sub, BitVec.toNat_ofNat]
  omega

theorem add_one_eq_ofNat : a + 1#8 = BitVec.ofNat 8 (a.toNat + 1) := add_eq_ofNat a 1#8

theorem sub_one_eq_ofNat : a - 1#8 = BitVec.ofNat 8 (a.toNat + 255) := sub_eq_ofNat a 1#8

theorem toNat_rotateLeft : (rotateLeft a c).toNat = (2 * a.toNat + c.toNat) % 256 := by
  have hlow : (a.extractLsb' 0 7).toNat = a.toNat % 128 := BitVec.extractLsb'_toNat ..
  have hc : c.toNat < 2 ^ 1 := c.toNat_lt
  rw [rotateLeft, BitVec.toNat_append, hlow, BitVec.toNat_ofBool, ← Nat.shiftLeft_add_eq_or_of_lt hc, Nat.shiftLeft_eq]
  omega

theorem rotateLeft_eq_ofNat : rotateLeft a c = BitVec.ofNat 8 (2 * a.toNat + c.toNat) := by
  apply BitVec.eq_of_toNat_eq
  rw [toNat_rotateLeft, BitVec.toNat_ofNat]

theorem rotateRight_eq_ofNat : rotateRight a c = BitVec.ofNat 8 (a.toNat / 2 + 128 * c.toNat) := by
  have ha := a.isLt
  have hhigh : (a.extractLsb' 1 7).toNat = a.toNat / 2 := by
    rw [BitVec.extractLsb'_toNat, Nat.shiftRight_eq_div_pow]
    omega
  have hc : c.toNat < 2 := c.toNat_lt
  apply BitVec.eq_of_toNat_eq
  rw [rotateRight, BitVec.toNat_append, ← Nat.shiftLeft_add_eq_or_of_lt (BitVec.isLt _), hhigh, BitVec.toNat_ofBool,
    Nat.shiftLeft_eq, BitVec.toNat_ofNat]
  omega

theorem swapNibbles_eq_ofNat : swapNibbles a = BitVec.ofNat 8 (a.toNat % 16 * 16 + a.toNat / 16) := by
  have ha := a.isLt
  have hhigh : (a.extractLsb' 4 4).toNat = a.toNat / 16 := by
    rw [BitVec.extractLsb'_toNat, Nat.shiftRight_eq_div_pow]
    omega
  apply BitVec.eq_of_toNat_eq
  rw [swapNibbles, BitVec.toNat_append, ← Nat.shiftLeft_add_eq_or_of_lt (BitVec.isLt _), hhigh, toNat_lowNibble,
    Nat.shiftLeft_eq, BitVec.toNat_ofNat]
  omega

theorem getLsbD_seven : a.getLsbD 7 = decide (128 ≤ a.toNat) := BitVec.msb_eq_decide a

theorem getLsbD_zero : a.getLsbD 0 = decide (a.toNat % 2 = 1) := Nat.testBit_zero _

/-! ## Single bits -/

variable {b j}

theorem getLsbD_bitMask (hj : j < 8) : (bitMask b).getLsbD j = decide (j = b) := by
  rw [bitMask, BitVec.getLsbD_shiftLeft, BitVec.getLsbD_one]
  by_cases h : j = b <;> simp [h] <;> omega

theorem getLsbD_clearBit (hj : j < 8) : (clearBit a b).getLsbD j = if j = b then false else a.getLsbD j := by
  rw [clearBit, BitVec.getLsbD_and, BitVec.getLsbD_not, getLsbD_bitMask hj]
  by_cases h : j = b <;> simp [h, hj]

theorem getLsbD_setBit (hj : j < 8) : (setBit a b).getLsbD j = if j = b then true else a.getLsbD j := by
  rw [setBit, BitVec.getLsbD_or, getLsbD_bitMask hj]
  by_cases h : j = b <;> simp [h]

theorem getLsbD_putBit (hj : j < 8) : (putBit a b v).getLsbD j = if j = b then v else a.getLsbD j := by
  cases v
  · exact getLsbD_clearBit a hj
  · exact getLsbD_setBit a hj

/-! ## Z -/

theorem zeroFlag_eq : zeroFlag a = decide (a = 0#8) := Bool.beq_eq_decide_eq ..

theorem zeroFlag_add_one : zeroFlag (a + 1#8) = decide (a = 255#8) := by
  rw [zeroFlag_eq, decide_eq_decide]
  exact eq_neg_iff_add_eq_zero.symm

theorem zeroFlag_sub : zeroFlag (m - x) = decide (m = x) := by
  rw [zeroFlag_eq, decide_eq_decide]
  exact sub_eq_zero

theorem zeroFlag_add_one_toNat : zeroFlag (a + 1#8) = decide (a.toNat = 255) := by
  rw [zeroFlag_add_one, decide_eq_decide]
  exact BitVec.toNat_inj.symm

theorem zeroFlag_sub_one_toNat : zeroFlag (a - 1#8) = decide (a.toNat = 1) := by
  rw [zeroFlag_sub, decide_eq_decide]
  exact BitVec.toNat_inj.symm

theorem zeroFlag_not : zeroFlag (~~~ a) = decide (a = 255#8) := by
  rw [zeroFlag_eq, decide_eq_decide]
  exact BitVec.not_eq_comm

theorem zeroFlag_or : zeroFlag (m ||| x) = decide (m = 0#8 ∧ x = 0#8) := by
  rw [zeroFlag_eq, decide_eq_decide]
  exact BitVec.or_eq_zero_iff

theorem zeroFlag_xor : zeroFlag (m ^^^ x) = decide (m = x) := by
  rw [zeroFlag_eq, decide_eq_decide]
  exact BitVec.xor_eq_zero_iff

/-! ## C and DC of a subtraction -/

theorem subCarry_eq_decide : subCarry m x = decide (x.toNat ≤ m.toNat) := rfl

theorem subDigitCarry_eq_decide : subDigitCarry m x = decide (x.toNat % 16 ≤ m.toNat % 16) := by
  rw [← toNat_lowNibble, ← toNat_lowNibble]
  rfl

/-- The carry out of `m` plus the complement of `x` plus 1 says that `m - x` borrows nothing. -/
theorem getLsbD_complementSum {n : Nat} (m x : BitVec n) :
    (m.setWidth (n + 1) + (~~~x).setWidth (n + 1) + 1#(n + 1)).getLsbD n = decide (x.toNat ≤ m.toNat) := by
  have hm : (m.setWidth (n + 1)).toNat = m.toNat := BitVec.toNat_setWidth_of_le (Nat.le_succ n)
  have hx : ((~~~x).setWidth (n + 1)).toNat = 2 ^ n - 1 - x.toNat := by
    rw [BitVec.toNat_setWidth_of_le (Nat.le_succ n), BitVec.toNat_not]
  have hone : (1#(n + 1)).toNat = 1 := BitVec.toNat_one (Nat.succ_pos n)
  have hpow := Nat.pow_succ' (m := 2) (n := n)
  have hmlt := m.isLt
  have hxlt := x.isLt
  have hsum : (m.setWidth (n + 1) + (~~~x).setWidth (n + 1) + 1#(n + 1)).toNat = m.toNat + (2 ^ n - x.toNat) := by
    rw [BitVec.toNat_add, BitVec.toNat_add, hm, hx, hone, Nat.mod_add_mod, Nat.mod_eq_of_lt (by omega)]
    omega
  calc (m.setWidth (n + 1) + (~~~x).setWidth (n + 1) + 1#(n + 1)).getLsbD n
      = (m.setWidth (n + 1) + (~~~x).setWidth (n + 1) + 1#(n + 1)).msb := (BitVec.msb_eq_getLsbD_last _).symm
    _ = decide (2 ^ n ≤ m.toNat + (2 ^ n - x.toNat)) := by rw [BitVec.msb_eq_decide, hsum]; rfl
    _ = decide (x.toNat ≤ m.toNat) := by
      rw [decide_eq_decide]
      omega

/-- Settles O36: the complement is `2 ^ n - 1` less the subtrahend, at width 8 and at width 4. -/
theorem subFlagsAgreeWithComplementAddition : Obligations.SubFlagsAgreeWithComplementAddition := by
  intro m x s
  have hc : (s.subFlags m x).c = decide (x.toNat ≤ m.toNat) := subCarry_eq_decide m x
  have hdc : (s.subFlags m x).dc = decide (x.toNat % 16 ≤ m.toNat % 16) := subDigitCarry_eq_decide m x
  refine ⟨hc, hdc, zeroFlag_sub m x, ?carry, ?digitCarry, ?zero⟩
  case carry => rw [hc, getLsbD_complementSum]
  case digitCarry => rw [hdc, getLsbD_complementSum, toNat_lowNibble, toNat_lowNibble]
  case zero =>
    rintro rfl
    rw [hc, hdc]
    simp

theorem addFlags_eq (a x : Byte) (s : State) : s.addFlags a x = { s with
    c := decide (256 ≤ a.toNat + x.toNat)
    dc := decide (16 ≤ a.toNat % 16 + x.toNat % 16)
    z := decide ((a.toNat + x.toNat) % 256 = 0) } := by
  obtain ⟨-, hc, hdc, hz, hflags⟩ := addFlagsAreTheCarries a x s
  rw [hflags, hc, hdc, hz]

theorem subFlags_eq (m x : Byte) (s : State) : s.subFlags m x = { s with
    c := decide (x.toNat ≤ m.toNat)
    dc := decide (x.toNat % 16 ≤ m.toNat % 16)
    z := decide (m.toNat = x.toNat) } := by
  rw [State.subFlags, subCarry_eq_decide, subDigitCarry_eq_decide, zeroFlag_sub]
  simp only [BitVec.toNat_inj]

/-- Settles O39: SubFlags of the literal and W, and the difference modulo 256. -/
theorem sublwResult : Obligations.SublwResult := by
  intro s k hk
  rw [exec, execSublw, subFlags_eq, sub_eq_ofNat, toNat_lit8 hk]
  rfl

end Sys2Proof.Proofs.Arithmetic
end

section
/-! SUPPORT, and the proofs of O14, O15, O16, O30 and O49. The tables of what an instruction may write and where it goes
(10_state.md sections 2 to 6, 70_reset_and_hazards.md section 4), read off its effect. -/

namespace Sys2Proof.Proofs.Tables

open Sys2Proof Sys2Proof.Machine Sys2Proof.Proofs.PdFrame Sys2Proof.Proofs.Effects Sys2Proof.Proofs.Arithmetic

variable {s t u : State} {f : Nat} {i : Instr}

/-! ## The next pc -/

theorem exec_jump_pc {k : Nat} (hi : i = .goto k ∨ i = .call k) (h : exec i s = .next t) :
    t.pc = s.pclatch.extractLsb' 3 2 ++ BitVec.ofNat 11 k := by
  rcases hi with rfl | rfl
  · cases h
    rfl
  · obtain ⟨-, rfl⟩ := pushAndJump_next h
    rfl

theorem popToPc_pc (h : popToPc s = .next t) : s.stack.getLast? = some t.pc ∧ t.stack = s.stack.dropLast := by
  obtain ⟨b, hstack, rfl⟩ := popToPc_next h
  refine ⟨?_, rfl⟩
  rw [hstack, List.getLast?_append]
  rfl

theorem exec_return_pc (hi : i = .ret ∨ (∃ k, i = .retlw k) ∨ i = .retfie) (h : exec i s = .next t) :
    s.stack.getLast? = some t.pc ∧ t.stack = s.stack.dropLast := by
  rcases hi with rfl | ⟨k, rfl⟩ | rfl
  · exact popToPc_pc h
  · exact popToPc_pc (s := s.setW (lit8 k)) h
  · exact popToPc_pc (s := s.setGie true) h

/-- Settles O14: the transfers write pc themselves, every other instruction counts on from the pc its accesses leave. -/
theorem nextPcTable : Obligations.NextPcTable := by
  intro i s t h
  refine ⟨fun k hi => exec_jump_pc hi h, fun hi => exec_return_pc hi h, fun hi => ?_⟩
  cases hf : fileOperand i with
  | none =>
    refine ⟨s, fun _ => rfl, nofun, fun _ => rfl, fun _ => (exec_coreEffect hf h).sequence hi, ?_, ?_, ?_, ?_⟩
    all_goals
      rintro f x a y rfl -
      cases hf
  | some f =>
    obtain ⟨u, heff⟩ := exec_fileEffect hf h
    refine ⟨u, nofun, fun g hg => Option.some.inj hg ▸ heff.accessed, heff.pc_of_notGeneral hf, heff.sequence,
      ?btfsc, ?btfss, ?decfsz, ?incfsz⟩
    all_goals
      rintro g b a x rfl hread
      cases hf
      have hpc := heff.pc_of_read rfl hread
    case btfsc => cases hbit : a.getLsbD b <;> simpa [skipsOn, hbit] using hpc
    case btfss => exact hpc
    case decfsz => simpa only [skipsOn, zeroFlag_sub, decide_eq_true_iff] using hpc
    case incfsz => simpa only [skipsOn, zeroFlag_add_one, decide_eq_true_iff] using hpc

/-! ## Cycles -/

theorem cycles_of_skip {a : Byte} {x : State} (hi : isSkip i = true) (hf : fileOperand i = some f)
    (hread : readFile f s = some (a, x)) : cycles i s = if skipsOn i a then 2 else 1 := by
  cases i with
  | btfsc g b | btfss g b | decfsz g d | incfsz g d =>
    cases hf
    rw [cycles, skipCycles, hread]
    rfl
  | _ => cases hi

theorem cycles_of_transfer (hi : isTransfer i = true) : cycles i s = 2 := by
  cases i with
  | call k | goto k | ret | retlw k | retfie => rfl
  | _ => cases hi

theorem cycles_of_sequence (ht : isTransfer i = false) (hs : isSkip i = false) : cycles i s = 1 := by
  cases i with
  | call k | goto k | ret | retlw k | retfie => cases ht
  | btfsc g b | btfss g b | decfsz g d | incfsz g d => cases hs
  | _ => rfl

theorem fileOperand_of_isSkip (hi : isSkip i = true) : ∃ f, fileOperand i = some f := by
  cases i with
  | btfsc g b | btfss g b | decfsz g d | incfsz g d => exact ⟨g, rfl⟩
  | _ => cases hi

/-- Settles O49: the byte that decides the skip is the byte that the cycles are counted from. -/
theorem cyclesTable : Obligations.CyclesTable := by
  refine fun i s t h => ⟨cycles_of_transfer, cycles_of_sequence, fun hi => ?_⟩
  obtain ⟨f, hf⟩ := fileOperand_of_isSkip hi
  obtain ⟨u, heff⟩ := exec_fileEffect hf h
  obtain ⟨a, x, hread, hpc⟩ := heff.skip hi
  refine ⟨f, u, hf, heff.accessed, heff.pc_of_notGeneral hf, ?_⟩
  rw [hpc, cycles_of_skip hi hf hread]
  cases skipsOn i a
  · exact .inr ⟨rfl, rfl⟩
  · exact .inl ⟨rfl, rfl⟩

/-! ## Flags -/

/-- Settles O15: the accesses to plain storage reach no flag, and after them an instruction writes those of its row alone. -/
theorem flagTableFrame : Obligations.FlagTableFrame := by
  intro i s t hs h
  cases hf : fileOperand i with
  | none =>
    have heff := exec_coreEffect hf h
    exact ⟨fun harith _ => heff.carry harith, heff.digitCarry, heff.zero, heff.power⟩
  | some f =>
    obtain ⟨u, heff⟩ := exec_fileEffect hf h
    have hu := accessed_of_notSpecial (notSpecial_of_operand hs hf) heff.accessed
    have hresult := heff.result
    rw [hu] at heff hresult
    exact ⟨heff.carry, heff.digitCarry, heff.zero, fun _ => by rw [hresult]; exact ⟨rfl, rfl⟩⟩

/-! ## The rest of the state -/

/-- Settles O16: no access but to a general register reaches the stack, the watchdog or the sleep, and no instruction with an f
operand writes them after its accesses. -/
theorem controlStateFrame : Obligations.ControlStateFrame := by
  intro i s t h
  obtain ⟨hinputs, hdraws, hprog, hpar, -, -⟩ := exec_keeps h
  cases hf : fileOperand i with
  | none =>
    have heff := exec_coreEffect hf h
    exact ⟨fun _ => ⟨heff.stack, heff.watchdog, heff.sleeping⟩, hinputs, hdraws, hprog, hpar,
      fun _ => ⟨heff.gie, heff.rest⟩⟩
  | some f =>
    obtain ⟨u, heff⟩ := exec_fileEffect hf h
    refine ⟨fun hg => ?general, hinputs, hdraws, hprog, hpar, fun hs => ?special⟩
    case general =>
      obtain ⟨-, hstack, hwdt, hwdtps, hsleep⟩ := accessed_frame (notGeneral_of_operand hg hf) heff.accessed
      rw [heff.result]
      exact ⟨fun _ => hstack, fun _ => ⟨hwdt, hwdtps⟩, fun _ => hsleep⟩
    case special =>
      rw [heff.result, accessed_of_notSpecial (notSpecial_of_operand hs hf) heff.accessed]
      exact ⟨fun _ => rfl, rfl, rfl, rfl⟩

/-! ## An f that designates nothing -/

theorem withFile_unmapped {k : Byte → State → Result} (hk : fileKind f s.par = .unmapped) :
    withFile f s k = .refused .fileNotMapped := by
  rw [withFile, readFile_unmapped hk]

theorem storeFile_unmapped {v : Byte} {k : State → Result} (hk : fileKind f s.par = .unmapped) :
    storeFile f v s k = .refused .fileNotMapped := by
  rw [storeFile, writeFile_unmapped hk]

/-- Settles O30: the first access to f refuses, a write for CLRF and MOVWF and a read for the others. -/
theorem unmappedFileIsRefused : Obligations.UnmappedFileIsRefused := by
  intro i s f hf hk
  cases i with
  | clrf g | movwf g =>
    cases hf
    exact storeFile_unmapped hk
  | addwf g d | andwf g d | comf g d | decf g d | decfsz g d | incf g d | incfsz g d | iorwf g d | movf g d | rlf g d | rrf g d
  | subwf g d | swapf g d | xorwf g d | bcf g b | bsf g b | btfsc g b | btfss g b =>
    cases hf
    exact withFile_unmapped hk
  | _ => cases hf

end Sys2Proof.Proofs.Tables
end

section
/-! SUPPORT, and the proofs of O8 to O13. One boundary of the machine (20_memory.md R67, 60_exceptions.md R251): which event
happens, what each event leaves, and what no step changes. -/

namespace Sys2Proof.Proofs.Boundary

open Sys2Proof Sys2Proof.Machine Sys2Proof.Proofs.Effects

section

variable {s t : State} {w : InstrWord} {i : Instr}

/-! ## The inputs -/

/-- Where the schedule has ended the boundary brings nothing. -/
theorem latchInputs_of_nil (h : s.inputs = []) : s.latchInputs = s := by
  cases s
  cases h
  rfl

theorem inputsNow_mem (s : State) : inputsNow s = Inputs.quiet ∨ inputsNow s ∈ s.inputs := by
  rw [inputsNow]
  cases s.inputs with
  | nil => exact .inl rfl
  | cons inp l => exact .inr (List.mem_cons_self ..)

/-! ## Each event -/

theorem step_of_mclr (h : (inputsNow s).mclr = true) :
    step s = .next (resetEvent s.par.resetTo s.par.resetPd s.latchInputs) := by
  rw [step, boundary, chooseEvent, if_pos h]
  rfl

theorem chooseEvent_of_timeout (hm : (inputsNow s).mclr = false) (ht : (inputsNow s).wdtTimeout = true)
    (he : s.par.wdtEnabled = true) :
    chooseEvent (inputsNow s) s.latchInputs = if s.sleeping then .wdtWake else .wdtReset := by
  rw [chooseEvent, if_neg (by simp [hm]), if_pos (by simp [ht, he])]
  rfl

theorem step_of_timeout_awake (hm : (inputsNow s).mclr = false) (ht : (inputsNow s).wdtTimeout = true)
    (he : s.par.wdtEnabled = true) (hs : s.sleeping = false) :
    step s = .next (resetEvent false s.par.resetPd s.latchInputs) := by
  rw [step, boundary, chooseEvent_of_timeout hm ht he, hs]
  rfl

theorem step_of_timeout_asleep (hm : (inputsNow s).mclr = false) (ht : (inputsNow s).wdtTimeout = true)
    (he : s.par.wdtEnabled = true) (hs : s.sleeping = true) :
    step s = .next ((s.latchInputs.setSleeping false).setTo false) := by
  rw [step, boundary, chooseEvent_of_timeout hm ht he, hs]
  rfl

/-- With neither reset nor time-out a sleeping core wakes or sleeps on, and an awake one takes an interrupt or executes. -/
theorem chooseEvent_of_noReset (h : NoResetNow s) : chooseEvent (inputsNow s) s.latchInputs =
    if s.sleeping then (if irqWake (irqNow s) then .irqWake else .idle)
    else if (inputsNow s).accept && s.gie && irqPending (irqNow s) then .interrupt else .execute := by
  obtain ⟨hm, ht⟩ := h
  rw [chooseEvent, if_neg (by simp [hm]), if_neg (by simp [ht])]
  rfl

theorem step_of_sleeping (h : NoResetNow s) (hs : s.sleeping = true) :
    step s = .next (s.latchInputs.setSleeping (!irqWake (irqNow s))) := by
  rw [step, boundary, chooseEvent_of_noReset h, if_pos hs]
  cases irqWake (irqNow s) with
  | true => rfl
  | false =>
    have hidle : s.latchInputs.setSleeping true = s.latchInputs := by
      rw [← hs]
      rfl
    exact congrArg Host.Outcome.next hidle.symm

theorem step_of_accepts (h : NoResetNow s) (hs : s.sleeping = false) (ha : AcceptsNow s) :
    step s = takeInterrupt s.latchInputs := by
  obtain ⟨haccept, hgie, hpending⟩ := ha
  rw [step, boundary, chooseEvent_of_noReset h, hs, haccept, hgie, hpending]
  rfl

theorem step_of_executesNow (h : ExecutesNow s) : step s = executeNext s.latchInputs := by
  obtain ⟨hreset, hs, ha⟩ := h
  have hleft : ¬ ((inputsNow s).accept && s.gie && irqPending (irqNow s)) = true := by
    simpa only [AcceptsNow, Bool.and_eq_true, and_assoc] using ha
  rw [step, boundary, chooseEvent_of_noReset hreset, hs, if_neg Bool.false_ne_true, if_neg hleft]
  rfl

/-! ## The instruction at pc -/

theorem executeNext_of_word (hsize : s.pc.toNat < s.par.progSize) (hread : progRead s.prog s.pc.toNat = some w)
    (hdecode : decode w = .instr i) : executeNext s = exec i s := by
  simp only [executeNext, fetch, if_pos hsize, hread, hdecode]

theorem executeNext_of_outOfRange (hsize : s.par.progSize ≤ s.pc.toNat) : executeNext s = .refused .fetchOutOfRange := by
  simp only [executeNext, fetch, if_neg (Nat.not_lt.mpr hsize)]

theorem executeNext_of_unprogrammed (hsize : s.pc.toNat < s.par.progSize) (hread : progRead s.prog s.pc.toNat = none) :
    executeNext s = .fault .unprogrammedWord := by
  simp only [executeNext, fetch, if_pos hsize, hread]

theorem executeNext_of_illegal (hsize : s.pc.toNat < s.par.progSize) (hread : progRead s.prog s.pc.toNat = some w)
    (hdecode : decode w = .illegalEncoding) : executeNext s = .refused .illegalEncoding := by
  simp only [executeNext, fetch, if_pos hsize, hread, hdecode]

theorem fetch_eq_word (h : fetch s = .word w) : s.pc.toNat < s.par.progSize ∧ progRead s.prog s.pc.toNat = some w := by
  unfold fetch at h
  split at h
  · split at h
    · cases h
      exact ⟨‹_›, ‹_›⟩
    · cases h
  · cases h

theorem executeNext_next (h : executeNext s = .next t) :
    ∃ w i, progRead s.prog s.pc.toNat = some w ∧ decode w = .instr i ∧ exec i s = .next t := by
  unfold executeNext at h
  split at h
  · cases h
  · cases h
  · split at h
    · cases h
    · obtain ⟨-, hread⟩ := fetch_eq_word ‹_›
      exact ⟨_, _, hread, ‹_›, h⟩

/-! ## Everything a step can do -/

theorem executesNow_of_chooseEvent (h : chooseEvent (inputsNow s) s.latchInputs = .execute) : ExecutesNow s := by
  obtain ⟨hm, ht, hs, ha⟩ := chooseEvent_execute h
  refine ⟨⟨hm, ht⟩, hs, fun ⟨haccept, hgie, hpending⟩ => ?_⟩
  rw [haccept, latchInputs_gie, hgie] at ha
  exact Bool.false_ne_true (ha.symm.trans hpending)

/-- A step that goes on is a reset, a wake-up or one more step of sleep, an interrupt entry, or an instruction. -/
theorem step_next (h : step s = .next t) :
    (∃ toVal pdVal, t = resetEvent toVal pdVal s.latchInputs) ∨
    (∃ sleeps toVal, t = { s.latchInputs with sleeping := sleeps, toFlag := toVal }) ∨
    takeInterrupt s.latchInputs = .next t ∨
    (ExecutesNow s ∧ ∃ w i, progRead s.prog s.pc.toNat = some w ∧ decode w = .instr i ∧ exec i s.latchInputs = .next t) := by
  have hrun : runEvent (chooseEvent (inputsNow s) s.latchInputs) s.latchInputs = .next t := h
  cases hevent : chooseEvent (inputsNow s) s.latchInputs with
  | reset | wdtReset =>
    rw [hevent] at hrun
    exact .inl ⟨_, _, (Host.Outcome.next.inj hrun).symm⟩
  | wdtWake | irqWake =>
    rw [hevent] at hrun
    exact .inr (.inl ⟨_, _, (Host.Outcome.next.inj hrun).symm⟩)
  | idle =>
    rw [hevent] at hrun
    exact .inr (.inl ⟨s.sleeping, s.toFlag, (Host.Outcome.next.inj hrun).symm⟩)
  | interrupt =>
    rw [hevent] at hrun
    exact .inr (.inr (.inl hrun))
  | execute =>
    rw [hevent] at hrun
    exact .inr (.inr (.inr ⟨executesNow_of_chooseEvent hevent, executeNext_next hrun⟩))

/-- PROG and the parameters outlast every step. -/
theorem step_prog_par (h : step s = .next t) : t.prog = s.prog ∧ t.par = s.par := by
  rcases step_next h with ⟨a, b, rfl⟩ | ⟨a, b, rfl⟩ | htake | ⟨-, w, i, -, -, hexec⟩
  · exact ⟨rfl, rfl⟩
  · exact ⟨rfl, rfl⟩
  · obtain ⟨-, rfl⟩ := takeInterrupt_next htake
    exact ⟨rfl, rfl⟩
  · obtain ⟨-, -, hprog, hpar, -, -⟩ := exec_keeps hexec
    exact ⟨hprog, hpar⟩

end

/-! ## The obligations -/

/-- Settles O11: an instruction keeps the forms that its accesses keep, interrupt entry pushes only where there is room, and a
reset empties the stack and makes the f registers anew. -/
theorem everyStepKeepsInvariant : Obligations.EveryStepKeepsInvariant := by
  rintro s t ⟨hmem, hprog, hstack, hpar⟩ h
  obtain ⟨hprogEq, hparEq⟩ := step_prog_par h
  have hforms : t.mem.wf = true ∧ t.stack.length ≤ s.par.stackDepth := by
    rcases step_next h with ⟨a, b, rfl⟩ | ⟨a, b, rfl⟩ | htake | ⟨-, w, i, -, -, hexec⟩
    · exact ⟨unknownCells_wf _, Nat.zero_le _⟩
    · exact ⟨hmem, hstack⟩
    · obtain ⟨hroom, rfl⟩ := takeInterrupt_next htake
      exact ⟨hmem, by simpa using hroom⟩
    · obtain ⟨-, -, -, hpar', hwf, hdepth⟩ := exec_keeps hexec
      exact ⟨hwf hmem, hpar' ▸ hdepth hstack⟩
  obtain ⟨hmem', hstack'⟩ := hforms
  exact ⟨hmem', hprogEq ▸ hprog, hparEq ▸ hstack', hparEq ▸ hpar⟩

/-- Settles O13: no event writes PROG or a parameter, and neither does an access to a register of any kind. -/
theorem programMemoryNeverChanges : Obligations.ProgramMemoryNeverChanges :=
  fun _ _ => step_prog_par

/-- Settles O8: the boundary's inputs are taken in, the word at pc is fetched and decoded, and what it decodes to is performed. -/
theorem stepRunsDecodedInstruction : Obligations.StepRunsDecodedInstruction := by
  intro s w i hnow hsize hread hdecode
  have hstep : step s = exec i s.latchInputs := by
    rw [step_of_executesNow hnow, executeNext_of_word (s := s.latchInputs) hsize hread hdecode]
  refine ⟨hstep, fun hnil => ?_⟩
  rw [hstep, latchInputs_of_nil hnil]

/-- Settles O9: the three ways in which fetch or decode gives no instruction. -/
theorem fetchAndDecodeStops : Obligations.FetchAndDecodeStops := by
  intro s hnow
  rw [step_of_executesNow hnow]
  exact ⟨executeNext_of_outOfRange (s := s.latchInputs), executeNext_of_unprogrammed (s := s.latchInputs),
    fun _ => executeNext_of_illegal (s := s.latchInputs)⟩

theorem decodeTableWord_eq_some {nbits n : Nat} {i : Instr} (h : decodeTableWord nbits n = some i) :
    decode (BitVec.ofNat 14 (n % 2 ^ nbits)) = .instr i := by
  dsimp only [decodeTableWord] at h
  split at h
  · split at h
    · cases h
      assumption
    · cases h
  · cases h

theorem executesNow_loadWordAtPc (w : InstrWord) (s : State) : ExecutesNow (loadWordAtPc w s) :=
  ⟨⟨rfl, rfl⟩, rfl, fun h => Bool.false_ne_true h.1⟩

/-- Settles O10: the load puts the word where the fetch looks, makes the address an implemented one and the boundary quiet. -/
theorem loadedWordRunsNext : Obligations.LoadedWordRunsNext := by
  intro s nbits n i h
  refine ⟨?_, rfl, rfl, rfl, rfl⟩
  have hsize : s.pc.toNat < max s.par.progSize (s.pc.toNat + 1) := by omega
  obtain ⟨-, hrun⟩ := stepRunsDecodedInstruction (s.withFetchWord nbits n) _ i (executesNow_loadWordAtPc _ s) hsize
    (progRead_progWrite_same s.prog _ _) (decodeTableWord_eq_some h)
  exact hrun rfl

/-- Settles O12: the f registers, PROG and the stack are empty, and the parameters are those of `Params.launch`. -/
theorem invariantHoldsAtReset : Obligations.InvariantHoldsAtReset := ⟨rfl, rfl, Nat.zero_le _, by decide⟩

end Sys2Proof.Proofs.Boundary
end

section
/-! SUPPORT, and the proofs of O43, O44, O45 and O48. CALL, the returns and SLEEP (44_control_transfer.md, 45_system.md R222): a
push where there is room, a pop where there is an address, and the two together. -/

namespace Sys2Proof.Proofs.Returns

open Sys2Proof Sys2Proof.Machine Sys2Proof.Proofs.ControlTransfer Sys2Proof.Proofs.Literal

section

variable {s : State} {a dest : PAddr} {l : List PAddr}

theorem pushAndJump_of_room (h : s.stack.length < s.par.stackDepth) :
    pushAndJump a dest s = .next { s with stack := s.stack ++ [a], pc := dest } := by
  rw [pushAndJump, push, if_pos h]
  rfl

theorem pushAndJump_of_full (h : s.par.stackDepth ≤ s.stack.length) : pushAndJump a dest s = .refused .stackOverflow := by
  rw [pushAndJump, push, if_neg (Nat.not_lt.mpr h)]

theorem popToPc_of_append (h : s.stack = l ++ [a]) : popToPc s = .next { s with stack := l, pc := a } := by
  rw [popToPc, pop_append l a h]
  rfl

theorem popToPc_of_nil (h : s.stack = []) : popToPc s = .refused .stackUnderflow := by
  rw [popToPc, pop, h]
  rfl

end

/-- Settles O43: the return address is pushed where there is room, and the target is that of GOTO. -/
theorem callResult : Obligations.CallResult := by
  intro s k hk
  rw [exec, execCall, target_eq_ofNat hk]
  exact ⟨pushAndJump_of_room, pushAndJump_of_full⟩

/-- Settles O44: what RETLW and RETFIE write besides, W and GIE, is written before the pop and outlasts it. -/
theorem returnsResult : Obligations.ReturnsResult :=
  fun s k _ =>
    ⟨fun _ _ hstack => ⟨popToPc_of_append hstack, popToPc_of_append (s := s.setW (lit8 k)) hstack,
        popToPc_of_append (s := s.setGie true) hstack⟩,
      fun hnil => ⟨popToPc_of_nil hnil, popToPc_of_nil (s := s.setW (lit8 k)) hnil,
        popToPc_of_nil (s := s.setGie true) hnil⟩⟩

/-- Settles O45: the address that the CALL pushed is the last of the stack it left. -/
theorem returnGoesBackAfterTheCall : Obligations.ReturnGoesBackAfterTheCall :=
  fun s k hk hroom => ⟨_, (callResult s k hk).1 hroom, fun _ hu => popToPc_of_append hu⟩

/-- Settles O48: the watchdog is cleared, power-down is entered, and pc counts on. -/
theorem sleepResult : Obligations.SleepResult := fun _ => rfl

end Sys2Proof.Proofs.Returns
end

section
/-! SUPPORT, and the proofs of O50 to O59. Interrupts, the watchdog, sleep and reset at a boundary (60_exceptions.md,
70_reset_and_hazards.md sections 1 and 2). -/

namespace Sys2Proof.Proofs.Events

open Sys2Proof Sys2Proof.Machine Sys2Proof.Proofs.Boundary Sys2Proof.Proofs.Returns Sys2Proof.Proofs.Tables

/-! ## Interrupts -/

/-- Settles O50: entry is a push of pc and a jump to the vector, with GIE cleared. -/
theorem interruptEntryResult : Obligations.InterruptEntryResult := by
  intro s hreset hawake haccepts
  rw [step_of_accepts hreset hawake haccepts]
  exact ⟨pushAndJump_of_room (s := s.latchInputs.setGie false), pushAndJump_of_full (s := s.latchInputs.setGie false)⟩

/-- Settles O51: the address that entry pushed is the last of the stack it left. -/
theorem retfieReturnsToInterruptedInstruction : Obligations.RetfieReturnsToInterruptedInstruction := by
  intro s t hreset hawake haccepts h
  rw [step_of_accepts hreset hawake haccepts] at h
  obtain ⟨-, rfl⟩ := takeInterrupt_next h
  exact ⟨rfl, fun u hu => popToPc_of_append (s := u.setGie true) hu⟩

theorem not_touchesSpecial_of_emptyMap {s : State} (i : Instr) (h : s.par.sfrMap = []) : ¬ TouchesSpecial i s := by
  rintro ⟨f, r, -, hk⟩
  rw [fileKind, h] at hk
  split at hk
  · split at hk <;> cases hk
  · cases hk

/-- Settles O52: a reset and interrupt entry clear GIE, and of the instructions only RETFIE reaches it without a special
register. -/
theorem onlyRetfieSetsGie : Obligations.OnlyRetfieSetsGie := by
  intro s t hmap hgie h hset
  rcases step_next h with ⟨a, b, rfl⟩ | ⟨a, b, rfl⟩ | htake | ⟨hnow, w, i, hread, hdecode, hexec⟩
  · cases hset
  · exact absurd (hgie.symm.trans hset) Bool.false_ne_true
  · obtain ⟨-, rfl⟩ := takeInterrupt_next htake
    cases hset
  · refine ⟨w, hnow, hread, ?_⟩
    obtain ⟨-, -, -, -, -, hspecial⟩ := controlStateFrame i _ t hexec
    obtain ⟨hkeep, -⟩ := hspecial (not_touchesSpecial_of_emptyMap i hmap)
    by_contra hi
    have hkept : t.gie = s.gie := hkeep fun heq => hi (heq ▸ hdecode)
    exact Bool.false_ne_true (hgie.symm.trans (hkept.symm.trans hset))

/-- Settles O53: without a reset of either kind, GIE = 0 leaves an awake core only the instruction at pc. -/
theorem noInterruptWithGieClear : Obligations.NoInterruptWithGieClear := by
  intro s hgie hawake
  cases hm : (inputsNow s).mclr with
  | true => exact .inl (step_of_mclr hm)
  | false =>
    cases ht : (inputsNow s).wdtTimeout && s.par.wdtEnabled with
    | true =>
      obtain ⟨ht, he⟩ := (Bool.and_eq_true ..).mp ht
      exact .inr (.inl (step_of_timeout_awake hm ht he hawake))
    | false =>
      have hleft : ¬ AcceptsNow s := fun ⟨_, hset, _⟩ => Bool.false_ne_true (hgie.symm.trans hset)
      exact .inr (.inr (step_of_executesNow ⟨⟨hm, ht⟩, hawake, hleft⟩))

/-! ## Reset and the watchdog -/

/-- Settles O54: the first event asked for is /MCLR, and the reset gives every register named its value. -/
theorem mclrResetOverridesAll : Obligations.MclrResetOverridesAll :=
  fun _ hm => ⟨_, step_of_mclr hm, rfl, rfl, rfl, rfl, rfl, rfl, rfl, unknownCells_wf _, rfl, rfl, rfl, rfl, rfl, rfl, rfl⟩

/-- Settles O55: the time-out comes after /MCLR alone, and without the watchdog its input is not read. -/
theorem watchdogTimeoutResult : Obligations.WatchdogTimeoutResult := by
  refine fun s hm ht => ⟨fun he hawake => ?_, fun he hasleep => step_of_timeout_asleep hm ht he hasleep, fun hoff => ?_⟩
  · exact ⟨_, step_of_timeout_awake hm ht he hawake, rfl, rfl, rfl, rfl, rfl, rfl, rfl, rfl, rfl⟩
  · have hpar : s.latchInputs.par.wdtEnabled = false := hoff
    simp only [chooseEvent, hpar, Bool.and_false]

/-! ## Sleep -/

/-- Settles O56: the one event left to a sleeping core is a wake-up, and without it the core has an idle step. -/
theorem sleepingCoreOnlyWakes : Obligations.SleepingCoreOnlyWakes :=
  fun _ => step_of_sleeping

theorem irqWake_iff (q : Irq) : irqWake q = true ↔
    ∃ src ∈ [SourceName.rb0Int, .rbChange, .eeWrite], (irqGet src q).enable = true ∧ (irqGet src q).wake = true := by
  simp [irqWake, sourceWakes, irqGet, or_assoc]

/-- A step of a sleeping core goes on, and leaves it awake after a reset, a time-out or a wake-up. -/
theorem step_wakes_iff {s : State} (hs : s.sleeping = true) : ∃ t, step s = .next t ∧ (t.sleeping = false ↔
    (inputsNow s).mclr = true ∨ ((inputsNow s).wdtTimeout = true ∧ s.par.wdtEnabled = true) ∨ irqWake (irqNow s) = true) := by
  cases hm : (inputsNow s).mclr with
  | true => exact ⟨_, step_of_mclr hm, iff_of_true rfl (.inl rfl)⟩
  | false =>
    cases ht : (inputsNow s).wdtTimeout && s.par.wdtEnabled with
    | true =>
      have htimeout := (Bool.and_eq_true ..).mp ht
      exact ⟨_, step_of_timeout_asleep hm htimeout.1 htimeout.2 hs, iff_of_true rfl (.inr (.inl htimeout))⟩
    | false =>
      refine ⟨_, step_of_sleeping ⟨hm, ht⟩ hs, ?_⟩
      rw [← Bool.and_eq_true, ht]
      simp

/-- Settles O57: a sleeping core's boundary is a reset, a time-out, a wake-up or an idle step, and an idle step alone sleeps on. -/
theorem threeWaysOutOfSleep : Obligations.ThreeWaysOutOfSleep := by
  intro s hs
  obtain ⟨t, hstep, hawake⟩ := step_wakes_iff hs
  refine ⟨t, hstep, by rw [hawake, irqWake_iff], fun hoff hnone => ?_⟩
  have hquiet : ¬ irqWake (irqNow s) = true := by
    rw [irqWake_iff]
    rintro ⟨q, hq, henable, -⟩
    exact Bool.false_ne_true ((hnone q hq).symm.trans henable)
  rw [hawake, hoff, or_iff_left]
  rintro (⟨-, he⟩ | hwake)
  · cases he
  · exact hquiet hwake

/-! ## A run that is over -/

theorem noResetNow_of_toCome {s : State} (h : NoResetToCome s) : NoResetNow s := by
  obtain ⟨hoff, hnever⟩ := h
  refine ⟨?_, by rw [hoff, Bool.and_false]⟩
  rcases inputsNow_mem s with hnow | hnow
  · rw [hnow]
    rfl
  · exact hnever _ hnow

theorem noResetToCome_latchInputs {s : State} (h : NoResetToCome s) : NoResetToCome s.latchInputs :=
  ⟨h.1, fun inp hinp => h.2 inp (List.mem_of_mem_tail hinp)⟩

theorem irqNow_of_never {s : State} {p : Irq → Bool} (h : IrqNever p s) : p (irqNow s) = false := by
  obtain ⟨hcurrent, hnever⟩ := h
  rcases inputsNow_mem s with hnow | hnow
  · rw [irqNow, hnow]
    exact hcurrent
  · cases hirq : (inputsNow s).irq with
    | none => rwa [irqNow, hirq]
    | some q =>
      rw [irqNow, hirq]
      exact hnever _ hnow q hirq

theorem irqNever_latchInputs {s : State} {p : Irq → Bool} (h : IrqNever p s) : IrqNever p s.latchInputs :=
  ⟨irqNow_of_never h, fun inp hinp => h.2 inp (List.mem_of_mem_tail hinp)⟩

/-- A run that is over takes in the boundary's inputs and stays where it is. -/
theorem step_of_runOver {s : State} (h : RunOver s) : step s = .next s.latchInputs := by
  obtain ⟨hreset, ⟨hs, hwake⟩ | ⟨hs, hquiet, w, k, hfetch, hdecode, htarget⟩⟩ := h
  · rw [step_of_sleeping (noResetNow_of_toCome hreset) hs, irqNow_of_never hwake, Bool.not_false, ← hs]
    rfl
  · have hleft : ¬ AcceptsNow s := by
      rintro ⟨-, hgie, hpending⟩
      rcases hquiet with hclear | hnever
      · exact Bool.false_ne_true (hclear.symm.trans hgie)
      · exact Bool.false_ne_true ((irqNow_of_never hnever).symm.trans hpending)
    obtain ⟨hsize, hread⟩ := fetch_eq_word hfetch
    rw [step_of_executesNow ⟨noResetNow_of_toCome hreset, hs, hleft⟩,
      executeNext_of_word (s := s.latchInputs) hsize hread hdecode]
    have hself : s.latchInputs.jump (target s.pclatch k) = s.latchInputs := by
      rw [htarget]
      rfl
    exact congrArg Host.Outcome.next hself

theorem runOver_latchInputs {s : State} (h : RunOver s) : RunOver s.latchInputs := by
  obtain ⟨hreset, ⟨hs, hwake⟩ | ⟨hs, hquiet, hloop⟩⟩ := h
  · exact ⟨noResetToCome_latchInputs hreset, .inl ⟨hs, irqNever_latchInputs hwake⟩⟩
  · exact ⟨noResetToCome_latchInputs hreset, .inr ⟨hs, hquiet.imp_right irqNever_latchInputs, hloop⟩⟩

theorem run_succ_of_step {s t : State} {n : Nat} (h : step s = .next t) :
    Sys2Proof.core.run (n + 1) s = Sys2Proof.core.run n t := by
  have hcore : Sys2Proof.core.step s = .next t := h
  simp only [Host.Core.run, hcore]

/-- Settles O58: each step of a run that is over takes in one entry of the schedule and leaves a run that is over. -/
theorem runThatIsOverStaysPut : Obligations.RunThatIsOverStaysPut := by
  intro n
  induction n with
  | zero => exact fun s h => ⟨s, rfl, h, rfl, fun _ => rfl⟩
  | succ n ih =>
    intro s h
    obtain ⟨t, hrun, hover, hframe, hended⟩ := ih s.latchInputs (runOver_latchInputs h)
    refine ⟨t, (run_succ_of_step (step_of_runOver h)).trans hrun, hover, ?_, fun hnil => ?_⟩
    · rw [hframe, latchInputs_inputs, List.drop_tail]
      rfl
    · have hlatch := latchInputs_of_nil hnil
      exact (hended (by rw [hlatch, hnil])).trans hlatch

/-- Settles O59: the fields of the reset state, one by one. -/
theorem resetStateHasTheDecidedValues : Obligations.ResetStateHasTheDecidedValues :=
  ⟨rfl, rfl, rfl, rfl, rfl, rfl, rfl, rfl, rfl, rfl⟩

end Sys2Proof.Proofs.Events
end

section
/-! SUPPORT, and the proofs of O17 to O26, O31 and O32. The register instructions on plain storage (20_memory.md section 2,
40_byte_oriented.md section 2, 41_bit_oriented.md, 43_skip.md): the read and the write they share, then each result. -/

namespace Sys2Proof.Proofs.PlainStorage

open Sys2Proof Sys2Proof.Machine Sys2Proof.Proofs.AddFlags Sys2Proof.Proofs.Arithmetic Sys2Proof.Proofs.Effects

section

variable {s t u : State} {f : Nat} {v a : Byte} {d : Dest}

/-! ## Plain storage as a memory -/

theorem stores_memWrite (hm : s.mem.wf = true) (f : Nat) (v : Byte) : Stores f v s { s with mem := memWrite s.mem f v } := by
  intro y
  simp only [memRead_memWrite hm, eq_comm]

/-- The first entry of a memory in canonical form is a byte of its own, nothing is listed below it, and the rest lies above it. -/
theorem memWfFrom_cons {lo x : Nat} {m : Memory} (h : memWfFrom lo ((x, v) :: m) = true) :
    v ≠ Config.unlistedByte ∧ memWfFrom x ((x, v) :: m) = true ∧ memWfFrom (x + 1) m = true := by
  simp only [memWfFrom, Bool.and_eq_true, decide_eq_true_eq] at h ⊢
  obtain ⟨⟨⟨-, hx⟩, hv⟩, hrest⟩ := h
  exact ⟨hv, ⟨⟨⟨Nat.le_refl x, hx⟩, hv⟩, hrest⟩, hrest⟩

theorem memRead_cons_self (x : Nat) (v : Byte) (m : Memory) : memRead ((x, v) :: m) x = v := if_pos rfl

/-- A memory that reads alike has no first entry above this one. -/
theorem first_le_of_memRead_eq {x lo : Nat} {m n : Memory} (hv : v ≠ Config.unlistedByte) (hn : memWfFrom lo n = true)
    (h : memRead ((x, v) :: m) x = memRead n x) : lo ≤ x := by
  by_contra hlt
  rw [memRead_cons_self, memRead_below hn (Nat.lt_of_not_le hlt)] at h
  exact hv h

theorem eq_of_memRead_eq_from {lo : Nat} {m n : Memory} (hm : memWfFrom lo m = true) (hn : memWfFrom lo n = true)
    (h : ∀ y, memRead m y = memRead n y) : m = n := by
  induction m generalizing lo n with
  | nil =>
    cases n with
    | nil => rfl
    | cons e n =>
      obtain ⟨hv, -⟩ := memWfFrom_cons hn
      exact absurd ((memRead_cons_self ..).symm.trans (h e.1).symm) hv
  | cons e m ih =>
    obtain ⟨x, v⟩ := e
    obtain ⟨hv, hmfirst, hmrest⟩ := memWfFrom_cons hm
    cases n with
    | nil => exact absurd ((memRead_cons_self ..).symm.trans (h x)) hv
    | cons e' n =>
      obtain ⟨x', v'⟩ := e'
      obtain ⟨hv', hnfirst, hnrest⟩ := memWfFrom_cons hn
      obtain rfl : x = x' :=
        Nat.le_antisymm (first_le_of_memRead_eq hv' hmfirst (h x').symm) (first_le_of_memRead_eq hv hnfirst (h x))
      obtain rfl : v = v' := by simpa only [memRead_cons_self] using h x
      have htail : ∀ y, memRead m y = memRead n y := by
        intro y
        by_cases hxy : x = y
        · rw [← hxy, memRead_below hmrest (Nat.lt_succ_self x), memRead_below hnrest (Nat.lt_succ_self x)]
        · simpa only [memRead, if_neg hxy] using h y
      rw [ih hmrest hnrest htail]

/-- Settles O32: the first entries stand at the same address, and the memories after them read alike. -/
theorem equalReadsMakeEqualMemories : Obligations.EqualReadsMakeEqualMemories :=
  fun _ _ => eq_of_memRead_eq_from

/-- Settles O31: the write is a write of the f registers at f, and f designates the same cell after it. -/
theorem plainStorageReadsLastWrite : Obligations.PlainStorageReadsLastWrite := by
  intro s f v hm hk
  have hstores := stores_memWrite hm f v
  refine ⟨_, writeFile_plain hk, ?_, hstores, rfl⟩
  have hread : memRead (memWrite s.mem f v) f = v := by rw [memRead_memWrite hm, if_pos rfl]
  rw [readFile_plain (s := { s with mem := memWrite s.mem f v }) hk, hread]

/-! ## The accesses as equations -/

theorem withFile_of_read {k : Byte → State → Result} (h : readFile f s = some (a, t)) : withFile f s k = k a t := by
  rw [withFile, h]

theorem storeFile_of_write {k : State → Result} (h : writeFile f v s = some t) : storeFile f v s k = k t := by
  rw [storeFile, h]

theorem storeDest_of_write {k : State → Result} (h : writeDest d f v s = some t) : storeDest d f v s k = k t := by
  cases d with
  | w =>
    cases h
    rfl
  | f => exact storeFile_of_write h

theorem readThenStore_of_accesses {op : Byte → Byte} {fin : Byte → State → State} (hread : readFile f s = some (a, t))
    (hwrite : writeDest d f (op a) t = some u) :
    withFile f s (fun a x => storeDest d f (op a) x fun y => .next (fin a y)) = .next (fin a u) := by
  rw [withFile_of_read hread, storeDest_of_write hwrite]

/-! ## The destination -/

/-- The destination alone has been written. -/
structure DestWritten (d : Dest) (f : Nat) (v : Byte) (s u : State) : Prop where
  dest : DestGets d f v s u
  flags : KeepsFlags s u
  pc : u.pc = s.pc
  control : KeepsControl s u

theorem writeDest_plain (hm : s.mem.wf = true) (hk : fileKind f s.par = .plain) (d : Dest) (v : Byte) :
    ∃ u, writeDest d f v s = some u ∧ DestWritten d f v s u := by
  have hcontrol : KeepsControl s s := ⟨rfl, rfl, rfl, rfl, rfl, rfl, rfl, rfl, rfl, rfl, rfl, rfl, rfl, rfl⟩
  cases d with
  | w => exact ⟨_, rfl, ⟨rfl, fun _ => rfl⟩, ⟨rfl, rfl, rfl⟩, rfl, hcontrol⟩
  | f => exact ⟨_, writeFile_plain hk, ⟨rfl, stores_memWrite hm f v⟩, ⟨rfl, rfl, rfl⟩, rfl, hcontrol⟩

/-- A read of plain storage and a store to the destination, and what is done at the end. -/
theorem readThenStore_plain (hm : s.mem.wf = true) (hk : fileKind f s.par = .plain) (d : Dest) (op : Byte → Byte)
    (fin : Byte → State → State) : ∃ u, DestWritten d f (op (memRead s.mem f)) s u ∧
      withFile f s (fun a x => storeDest d f (op a) x fun y => .next (fin a y)) = .next (fin (memRead s.mem f) u) := by
  obtain ⟨u, hwrite, hu⟩ := writeDest_plain hm hk d (op (memRead s.mem f))
  exact ⟨u, hu, readThenStore_of_accesses (readFile_plain hk) hwrite⟩

/-- The instructions that write Z only, on plain storage. -/
theorem fileOpZ_plain (hm : s.mem.wf = true) (hk : fileKind f s.par = .plain) (d : Dest) (op : Byte → Byte) :
    ∃ t, fileOpZ f d op s = .next t ∧ DestGets d f (op (memRead s.mem f)) s t ∧ t.z = zeroFlag (op (memRead s.mem f)) ∧
      t.c = s.c ∧ t.dc = s.dc ∧ t.pc = s.pc + 1 ∧ KeepsControl s t := by
  obtain ⟨u, hu, hexec⟩ := readThenStore_plain hm hk d op fun a y => (y.setZ (op a)).advance
  obtain ⟨hc, hdc, -⟩ := hu.flags
  exact ⟨_, hexec, hu.dest, rfl, hc, hdc, congrArg (· + 1) hu.pc, hu.control⟩

/-- A store to plain storage, and what is done at the end. -/
theorem storeFile_plain (hm : s.mem.wf = true) (hk : fileKind f s.par = .plain) (v : Byte) (fin : State → State) :
    ∃ u, DestWritten .f f v s u ∧ storeFile f v s (fun y => .next (fin y)) = .next (fin u) := by
  obtain ⟨u, hwrite, hu⟩ := writeDest_plain hm hk .f v
  exact ⟨u, hu, storeFile_of_write hwrite⟩

end

/-! ## The results -/

/-- Settles O17: the sum is stored, and AddFlags of the operands gives its carries. -/
theorem addwfResult : Obligations.AddwfResult := by
  intro s f d hm hk a
  obtain ⟨u, hu, hexec⟩ := readThenStore_plain hm hk d (fun a => a + s.w) fun a y => (y.addFlags a s.w).advance
  have hdest := hu.dest
  rw [add_eq_ofNat] at hdest
  obtain ⟨-, hc, hdc, hz, -⟩ := addFlagsAreTheCarries (memRead s.mem f) s.w u
  exact ⟨_, hexec, congrArg (· + 1) hu.pc, hdest, hc, hdc, hz, hu.control⟩

/-- Settles O18: the difference is stored, and SubFlags of the operands says where nothing is borrowed. -/
theorem subwfResult : Obligations.SubwfResult := by
  intro s f d hm hk a
  obtain ⟨u, hu, hexec⟩ := readThenStore_plain hm hk d (fun a => a - s.w) fun a y => (y.subFlags a s.w).advance
  have hdest := hu.dest
  rw [sub_eq_ofNat] at hdest
  rw [subFlags_eq] at hexec
  exact ⟨_, hexec, congrArg (· + 1) hu.pc, hdest, rfl, rfl, rfl, hu.control⟩

/-- Settles O19: the operation of W and the register, bit by bit. -/
theorem logicWithFileResult : Obligations.LogicWithFileResult := by
  intro s f d hm hk
  obtain ⟨x, hand, hxdest, hxz, hx⟩ := fileOpZ_plain hm hk d (s.w &&& ·)
  obtain ⟨y, hor, hydest, hyz, hy⟩ := fileOpZ_plain hm hk d (s.w ||| ·)
  obtain ⟨z, hxor, hzdest, hzz, hz⟩ := fileOpZ_plain hm hk d (s.w ^^^ ·)
  rw [zeroFlag_eq] at hxz hyz hzz
  exact ⟨⟨x, _, hand, fun _ _ => BitVec.getLsbD_and .., hxdest, hxz, hx⟩,
    ⟨y, _, hor, fun _ _ => BitVec.getLsbD_or .., hydest, hyz, hy⟩,
    ⟨z, _, hxor, fun _ _ => BitVec.getLsbD_xor .., hzdest, hzz, hz⟩⟩

/-- Settles O20: the complement is zero where the register holds 255, and a move keeps every bit. -/
theorem complementAndMoveResult : Obligations.ComplementAndMoveResult := by
  intro s f d hm hk
  obtain ⟨x, hcomf, hxdest, hxz, hx⟩ := fileOpZ_plain hm hk d (~~~ ·)
  obtain ⟨y, hmovf, hydest, hyz, hy⟩ := fileOpZ_plain hm hk d id
  rw [zeroFlag_not] at hxz
  rw [zeroFlag_eq] at hyz
  refine ⟨⟨x, _, hcomf, fun j hj => ?_, hxdest, hxz, hx⟩, ⟨y, hmovf, hydest, hyz, hy⟩⟩
  rw [BitVec.getLsbD_not, decide_eq_true hj, Bool.true_and]

/-- Settles O21: the count is modulo 256, so it is zero after 255 and before 255. -/
theorem incrementDecrementResult : Obligations.IncrementDecrementResult := by
  intro s f d hm hk a
  obtain ⟨x, hincf, hxdest, hxz, hx⟩ := fileOpZ_plain hm hk d (· + 1#8)
  obtain ⟨y, hdecf, hydest, hyz, hy⟩ := fileOpZ_plain hm hk d (· - 1#8)
  rw [zeroFlag_add_one_toNat] at hxz
  rw [zeroFlag_sub_one_toNat] at hyz
  rw [add_one_eq_ofNat] at hxdest
  rw [sub_one_eq_ofNat] at hydest
  exact ⟨⟨x, hincf, hxdest, hxz, hx⟩, ⟨y, hdecf, hydest, hyz, hy⟩⟩

/-- Settles O22: the bit that leaves the byte becomes C, and the old C comes in at the other end. -/
theorem rotateResult : Obligations.RotateResult := by
  intro s f d hm hk a
  obtain ⟨x, hx, hrlf⟩ := readThenStore_plain hm hk d (rotateLeft · s.c) fun a y => (y.setC (a.getLsbD 7)).advance
  obtain ⟨y, hy, hrrf⟩ := readThenStore_plain hm hk d (rotateRight · s.c) fun a y => (y.setC (a.getLsbD 0)).advance
  have hxdest := hx.dest
  have hydest := hy.dest
  rw [rotateLeft_eq_ofNat] at hxdest
  rw [rotateRight_eq_ofNat] at hydest
  obtain ⟨-, hxdc, hxz⟩ := hx.flags
  obtain ⟨-, hydc, hyz⟩ := hy.flags
  exact ⟨⟨_, hrlf, hxdest, getLsbD_seven _, hxdc, hxz, congrArg (· + 1) hx.pc, hx.control⟩,
    ⟨_, hrrf, hydest, getLsbD_zero _, hydc, hyz, congrArg (· + 1) hy.pc, hy.control⟩⟩

/-- Settles O23: SWAPF and MOVWF write the destination and pc alone, and the clears write Z besides. -/
theorem swapClearStoreResult : Obligations.SwapClearStoreResult := by
  refine ⟨fun _ => rfl, fun s f hm hk => ⟨fun d => ?swapf, ?clrf, ?movwf⟩⟩
  case swapf =>
    obtain ⟨u, hu, hexec⟩ := readThenStore_plain hm hk d swapNibbles fun _ y => y.advance
    have hdest := hu.dest
    rw [swapNibbles_eq_ofNat] at hdest
    exact ⟨_, hexec, hdest, hu.flags, congrArg (· + 1) hu.pc, hu.control⟩
  case clrf =>
    obtain ⟨u, hu, hexec⟩ := storeFile_plain hm hk 0#8 fun y => (y.setZ 0#8).advance
    obtain ⟨hw, hstores⟩ := hu.dest
    obtain ⟨hc, hdc, -⟩ := hu.flags
    exact ⟨_, hexec, hw, hstores, rfl, hc, hdc, congrArg (· + 1) hu.pc, hu.control⟩
  case movwf =>
    obtain ⟨u, hu, hexec⟩ := storeFile_plain hm hk s.w fun y => y.advance
    obtain ⟨hw, hstores⟩ := hu.dest
    exact ⟨_, hexec, hw, hstores, hu.flags, congrArg (· + 1) hu.pc, hu.control⟩

/-- Settles O24: the mask of bit b reaches that bit and no other. -/
theorem bitClearAndSetResult : Obligations.BitClearAndSetResult := by
  intro s f b hm hk _
  obtain ⟨x, hx, hbcf⟩ := readThenStore_plain hm hk .f (clearBit · b) fun _ y => y.advance
  obtain ⟨y, hy, hbsf⟩ := readThenStore_plain hm hk .f (setBit · b) fun _ y => y.advance
  obtain ⟨hxw, hxstores⟩ := hx.dest
  obtain ⟨hyw, hystores⟩ := hy.dest
  exact ⟨⟨_, _, hbcf, fun j hj => getLsbD_clearBit _ hj, hxstores, hxw, hx.flags, congrArg (· + 1) hx.pc, hx.control⟩,
    ⟨_, _, hbsf, fun j hj => getLsbD_setBit _ hj, hystores, hyw, hy.flags, congrArg (· + 1) hy.pc, hy.control⟩⟩

/-- Settles O25: the register is read, and pc alone is written. -/
theorem bitTestSkipResult : Obligations.BitTestSkipResult := by
  intro s f b hk _
  have hread := readFile_plain hk
  constructor
  · rw [exec, execBtfsc, withFile_of_read hread, skipWhen_eq]
    cases (memRead s.mem f).getLsbD b <;> rfl
  · rw [exec, execBtfss, withFile_of_read hread, skipWhen_eq]

/-- Settles O26: the skip asks whether the result is zero, so it is decided by the one value that counts to it. -/
theorem countAndSkipResult : Obligations.CountAndSkipResult := by
  intro s f d hm hk a
  obtain ⟨x, hx, hdecfsz⟩ := readThenStore_plain hm hk d (· - 1#8) fun a y => y.skipWhen (zeroFlag (a - 1#8))
  obtain ⟨y, hy, hincfsz⟩ := readThenStore_plain hm hk d (· + 1#8) fun a y => y.skipWhen (zeroFlag (a + 1#8))
  have hxdest := hx.dest
  have hydest := hy.dest
  rw [sub_one_eq_ofNat] at hxdest
  rw [add_one_eq_ofNat] at hydest
  rw [skipWhen_eq, zeroFlag_sub_one_toNat, hx.pc] at hdecfsz
  rw [skipWhen_eq, zeroFlag_add_one_toNat, hy.pc] at hincfsz
  simp only [decide_eq_true_eq] at hdecfsz hincfsz
  exact ⟨⟨_, hdecfsz, hxdest, rfl, hx.flags, hx.control⟩, ⟨_, hincfsz, hydest, rfl, hy.flags, hy.control⟩⟩

end Sys2Proof.Proofs.PlainStorage
end

section
/-! SUPPORT, and the proof of O37. The ring of 9 bits that RLF and RRF turn, the byte of f below C (40_byte_oriented.md R133,
R134, R136): turning it comes back around, and with it the whole state but pc. -/

namespace Sys2Proof.Proofs.Ring

open Sys2Proof Sys2Proof.Machine Sys2Proof.Proofs.PlainStorage

/-! ## The ring -/

/-- The ring is a byte and C; its bit 8 is C. -/
def ringBit (p : Byte × Bool) (i : Nat) : Bool := if i = 8 then p.2 else p.1.getLsbD i

/-- What RLF makes of the byte and C. -/
def turnLeft (p : Byte × Bool) : Byte × Bool := (rotateLeft p.1 p.2, p.1.getLsbD 7)

/-- What RRF makes of the byte and C. -/
def turnRight (p : Byte × Bool) : Byte × Bool := (rotateRight p.1 p.2, p.1.getLsbD 0)

/-- What SWAPF makes of the byte and C. -/
def swapHalves (p : Byte × Bool) : Byte × Bool := (swapNibbles p.1, p.2)

section

variable (p : Byte × Bool) {q : Byte × Bool} {i : Nat}

theorem ring_ext (h : ∀ i < 9, ringBit p i = ringBit q i) : p = q := by
  refine Prod.ext (BitVec.eq_of_getLsbD_eq fun i hi => ?_) (h 8 (by decide))
  have hne : i ≠ 8 := Nat.ne_of_lt hi
  simpa only [ringBit, if_neg hne] using h i (Nat.lt_succ_of_lt hi)

theorem getLsbD_rotateLeft (hi : i < 8) : (rotateLeft p.1 p.2).getLsbD i = if i = 0 then p.2 else p.1.getLsbD (i - 1) := by
  rw [rotateLeft, BitVec.getLsbD_append, BitVec.getLsbD_extractLsb']
  by_cases h0 : i = 0
  · simp [h0]
  · have h1 : ¬ i < 1 := by omega
    have h7 : i - 1 < 7 := by omega
    simp [h0, h1, h7]

theorem getLsbD_rotateRight (hi : i < 8) :
    (rotateRight p.1 p.2).getLsbD i = if i = 7 then p.2 else p.1.getLsbD (i + 1) := by
  rw [rotateRight, BitVec.getLsbD_append, BitVec.getLsbD_extractLsb']
  by_cases h7 : i = 7
  · simp [h7]
  · have hlt : i < 7 := by omega
    simp [h7, hlt, Nat.add_comm]

theorem ringBit_turnLeft (hi : i < 9) : ringBit (turnLeft p) i = ringBit p ((i + 8) % 9) := by
  by_cases h8 : i = 8
  · rw [h8]
    rfl
  by_cases h0 : i = 0
  · rw [h0]
    exact getLsbD_rotateLeft p (by decide)
  · have hprev : (i + 8) % 9 = i - 1 := by omega
    have hne : i - 1 ≠ 8 := by omega
    rw [hprev, ringBit, ringBit, if_neg h8, if_neg hne, turnLeft, getLsbD_rotateLeft p (by omega), if_neg h0]

theorem ringBit_turnRight (hi : i < 9) : ringBit (turnRight p) i = ringBit p ((i + 1) % 9) := by
  by_cases h8 : i = 8
  · rw [h8]
    rfl
  by_cases h7 : i = 7
  · rw [h7]
    exact getLsbD_rotateRight p (by decide)
  · have hnext : (i + 1) % 9 = i + 1 := by omega
    have hne : i + 1 ≠ 8 := by omega
    rw [hnext, ringBit, ringBit, if_neg h8, if_neg hne, turnRight, getLsbD_rotateRight p (by omega), if_neg h7]

/-- A turn of the ring by `k`, done `n` times, is a turn by `n * k`. -/
theorem ringBit_iterate {op : Byte × Bool → Byte × Bool} {k : Nat}
    (hop : ∀ (p : Byte × Bool), ∀ i < 9, ringBit (op p) i = ringBit p ((i + k) % 9)) (n : Nat) (hi : i < 9) :
    ringBit (op^[n] p) i = ringBit p ((i + n * k) % 9) := by
  induction n generalizing p with
  | zero => rw [Nat.zero_mul, Nat.add_zero, Nat.mod_eq_of_lt hi, Function.iterate_zero_apply]
  | succ n ih =>
    rw [Function.iterate_succ_apply, ih, hop _ _ (Nat.mod_lt _ (by decide)), Nat.mod_add_mod, Nat.succ_mul, Nat.add_assoc]

theorem iterate_nine_eq_id {op : Byte × Bool → Byte × Bool} {k : Nat}
    (hop : ∀ (p : Byte × Bool), ∀ i < 9, ringBit (op p) i = ringBit p ((i + k) % 9)) : op^[9] p = p := by
  refine ring_ext _ fun i hi => ?_
  rw [ringBit_iterate p hop 9 hi, Nat.add_mul_mod_self_left, Nat.mod_eq_of_lt hi]

theorem turnRight_turnLeft : turnRight (turnLeft p) = p := by
  refine ring_ext _ fun i hi => ?_
  have hback : ((i + 1) % 9 + 8) % 9 = i := by omega
  rw [ringBit_turnRight _ hi, ringBit_turnLeft _ (Nat.mod_lt _ (by decide)), hback]

theorem swapHalves_swapHalves : swapHalves (swapHalves p) = p := by
  have hswap : swapNibbles (swapNibbles p.1) = p.1 := by
    rw [swapNibbles, swapNibbles, BitVec.extractLsb'_append_eq_right, BitVec.extractLsb'_append_eq_left,
      BitVec.extractLsb'_append_extractLsb'_eq_extractLsb' (Nat.zero_add 4).symm, BitVec.extractLsb'_eq_self]
  exact Prod.ext hswap rfl

end

/-! ## The ring in the state -/

section

variable {s t : State} {f : Nat} {i : Instr} {op : Byte × Bool → Byte × Bool} {p : Byte × Bool}

/-- The state `t` is `s` with the ring at `f` holding `p`, wherever pc is. -/
structure RingHolds (f : Nat) (p : Byte × Bool) (s t : State) : Prop where
  wf : t.mem.wf = true
  stores : Stores f p.1 s t
  carry : t.c = p.2
  rest : t = { s with mem := t.mem, c := t.c, pc := t.pc }

theorem RingHolds.refl (hm : s.mem.wf = true) : RingHolds f (memRead s.mem f, s.c) s s := by
  refine ⟨hm, fun a => ?_, rfl, rfl⟩
  split
  · rw [‹a = f›]
  · rfl

/-- With the ring back as it was, all but pc is back: the f registers are determined by what they read as. -/
theorem RingHolds.eq_of_back (hm : s.mem.wf = true) (h : RingHolds f (memRead s.mem f, s.c) s t) :
    t = { s with pc := t.pc } := by
  have hmem : t.mem = s.mem := by
    refine equalReadsMakeEqualMemories _ _ h.wf hm fun a => ?_
    rw [h.stores a]
    split
    · rw [‹a = f›]
    · rfl
  have hrest := h.rest
  rwa [hmem, h.carry] at hrest

/-- The instruction moves the ring at a plain `f` by `op`, and pc by one. -/
def MovesRing (f : Nat) (i : Instr) (op : Byte × Bool → Byte × Bool) : Prop :=
  ∀ t : State, fileKind f t.par = .plain → exec i t = .next { t with
    mem := memWrite t.mem f (op (memRead t.mem f, t.c)).1
    c := (op (memRead t.mem f, t.c)).2
    pc := t.pc + 1 }

theorem RingHolds.exec (hi : MovesRing f i op) (hk : fileKind f s.par = .plain) (h : RingHolds f p s t) :
    ∃ u, exec i t = .next u ∧ u.pc = t.pc + 1 ∧ RingHolds f (op p) s u := by
  have hpar : t.par = s.par := by rw [h.rest]
  have hring : (memRead t.mem f, t.c) = p := Prod.ext ((h.stores f).trans (if_pos rfl)) h.carry
  have hkind : fileKind f t.par = .plain := hpar ▸ hk
  have hexec := hi t hkind
  rw [hring] at hexec
  refine ⟨_, hexec, rfl, memWrite_wf h.wf (fileKind_lt (s := t) (by simp [hkind])) _, fun a => ?_, rfl, ?_⟩
  · rw [memRead_memWrite h.wf, h.stores a]
    by_cases ha : a = f
    · simp only [ha, if_true]
    · simp only [ha, Ne.symm ha, if_false]
  · rw [h.rest]

theorem RingHolds.repeatExec (hi : MovesRing f i op) (hk : fileKind f s.par = .plain) (n : Nat) (h : RingHolds f p s t) :
    ∃ u, repeatExec i n t = .next u ∧ u.pc = t.pc + BitVec.ofNat 13 n ∧ RingHolds f (op^[n] p) s u := by
  induction n generalizing t p with
  | zero => exact ⟨t, rfl, (BitVec.add_zero _).symm, h⟩
  | succ n ih =>
    obtain ⟨u, hexec, hpc, hu⟩ := h.exec hi hk
    obtain ⟨x, hrepeat, hxpc, hx⟩ := ih hu
    refine ⟨x, ?_, ?_, hx⟩
    · simp only [Machine.repeatExec, hexec, hrepeat]
    · rw [hxpc, hpc, BitVec.add_assoc, Nat.add_comm n, BitVec.ofNat_add]
      rfl

/-- A move that brings every ring back after `n` times brings the state back but for pc. -/
theorem repeatExec_of_period (hi : MovesRing f i op) {n : Nat} (hop : ∀ p, op^[n] p = p) (hm : s.mem.wf = true)
    (hk : fileKind f s.par = .plain) : repeatExec i n s = .next { s with pc := s.pc + BitVec.ofNat 13 n } := by
  obtain ⟨u, hrepeat, hpc, hu⟩ := (RingHolds.refl hm).repeatExec hi hk n
  rw [hop] at hu
  rw [hrepeat, hu.eq_of_back hm, hpc]

theorem movesRing_rlf (f : Nat) : MovesRing f (.rlf f .f) turnLeft :=
  fun _ hk => readThenStore_of_accesses (d := .f) (readFile_plain hk) (writeFile_plain hk)

theorem movesRing_rrf (f : Nat) : MovesRing f (.rrf f .f) turnRight :=
  fun _ hk => readThenStore_of_accesses (d := .f) (readFile_plain hk) (writeFile_plain hk)

theorem movesRing_swapf (f : Nat) : MovesRing f (.swapf f .f) swapHalves :=
  fun _ hk => readThenStore_of_accesses (d := .f) (readFile_plain hk) (writeFile_plain hk)

end

/-- Settles O37: the ring comes back after nine turns, after a turn and its inverse and after two swaps, and with it the state. -/
theorem rotationsComeBackAround : Obligations.RotationsComeBackAround := by
  intro s f hm hk
  refine ⟨repeatExec_of_period (movesRing_rlf f) (fun p => iterate_nine_eq_id p fun p _ => ringBit_turnLeft p) hm hk,
    repeatExec_of_period (movesRing_rrf f) (fun p => iterate_nine_eq_id p fun p _ => ringBit_turnRight p) hm hk,
    repeatExec_of_period (movesRing_swapf f) swapHalves_swapHalves hm hk, ?_⟩
  obtain ⟨t, hrlf, htpc, ht⟩ := (RingHolds.refl hm).exec (movesRing_rlf f) hk
  obtain ⟨u, hrrf, hupc, hu⟩ := ht.exec (movesRing_rrf f) hk
  rw [turnRight_turnLeft] at hu
  refine ⟨t, hrlf, ?_⟩
  rw [hrrf, hu.eq_of_back hm, hupc, htpc, BitVec.add_assoc]
  rfl

end Sys2Proof.Proofs.Ring
end

section
/-! SUPPORT, and the proofs of O27 to O29 and O60. The register instructions on a special register (20_memory.md R62 to R65): every
access completes, and the instruction goes on from the state it leaves. -/

namespace Sys2Proof.Proofs.SpecialRegister

open Sys2Proof Sys2Proof.Machine Sys2Proof.Proofs.Arithmetic Sys2Proof.Proofs.Effects Sys2Proof.Proofs.PlainStorage

section

variable {s t : State} {f : Nat} {v a : Byte} {d : Dest} {r : Sfr}

/-! ## The accesses -/

theorem readFile_special (hk : fileKind f s.par = .special r) : ∃ a t, readFile f s = some (a, t) := by
  cases r with
  | layout bits => exact ⟨_, _, readFile_layout hk⟩
  | device => exact ⟨_, _, readFile_device hk⟩
  | general id => exact ⟨_, _, readFile_general hk⟩

theorem writeFile_special (hk : fileKind f s.par = .special r) (v : Byte) : ∃ u, writeFile f v s = some u := by
  cases r with
  | layout bits => exact ⟨_, writeFile_layout hk⟩
  | device => exact ⟨_, writeFile_device hk⟩
  | general id => exact ⟨_, writeFile_general hk⟩

theorem writeDest_special (hk : fileKind f s.par = .special r) (d : Dest) (v : Byte) :
    ∃ u, writeDest d f v s = some u := by
  cases d with
  | w => exact ⟨_, rfl⟩
  | f => exact writeFile_special hk v

/-- What a read leaves designates the same register. -/
theorem fileKind_of_read (h : readFile f s = some (a, t)) : fileKind f t.par = fileKind f s.par := by
  obtain ⟨-, -, -, hpar, -⟩ := readFile_keeps h
  rw [hpar]

theorem ne_general_of_kind (hk : fileKind f s.par = .special r) (hr : sfrIsGeneral r = false) (id : Nat) :
    fileKind f s.par ≠ .special (.general id) := by
  rw [hk]
  rintro ⟨⟩
  cases hr

/-- No access to a register that is not general moves pc. -/
theorem accessKeepsPc_of_notGeneral (hg : ∀ id, fileKind f s.par ≠ .special (.general id)) (hread : readFile f s = some (a, t))
    (d : Dest) : AccessKeepsPc f d s t := by
  have hread_pc : t.pc = s.pc := (accessed_frame hg (.inl ⟨a, hread⟩)).1
  have hwrite_pc {v u} (h : writeFile f v t = some u) : u.pc = s.pc :=
    (accessed_frame hg (.inr (.inr ⟨a, t, v, hread, h⟩))).1
  refine ⟨hread_pc, fun v u h => ?_⟩
  rcases h with hdest | hwrite | hfirst
  · cases d with
    | w =>
      cases hdest
      exact hread_pc
    | f => exact hwrite_pc hdest
  · exact hwrite_pc hwrite
  · exact (accessed_frame hg (.inr (.inl ⟨v, hfirst⟩))).1

/-! ## The shapes of a meaning -/

/-- A read, a store to the destination and what is done at the end: on a special register all of it is done. -/
theorem readThenStore_special (hk : fileKind f t.par = .special r) (hread : readFile f s = some (a, t)) (d : Dest)
    (op : Byte → Byte) (fin : Byte → State → State) : ∃ u, writeDest d f (op a) t = some u ∧
      withFile f s (fun a x => storeDest d f (op a) x fun y => .next (fin a y)) = .next (fin a u) := by
  obtain ⟨u, hwrite⟩ := writeDest_special hk d (op a)
  exact ⟨u, hwrite, readThenStore_of_accesses hread hwrite⟩

theorem fileOpZ_special (hk : fileKind f t.par = .special r) (hread : readFile f s = some (a, t)) (d : Dest)
    (op : Byte → Byte) {z : Bool} (hz : zeroFlag (op a) = z) : ∃ u, writeDest d f (op a) t = some u ∧
      fileOpZ f d op s = .next { u with z := z, pc := u.pc + 1 } := by
  obtain ⟨u, hwrite, hexec⟩ := readThenStore_special hk hread d op fun a y => (y.setZ (op a)).advance
  exact ⟨u, hwrite, by rw [← hz]; exact hexec⟩

theorem storeFile_special (hk : fileKind f s.par = .special r) (v : Byte) (fin : State → State) :
    ∃ u, writeFile f v s = some u ∧ storeFile f v s (fun y => .next (fin y)) = .next (fin u) := by
  obtain ⟨u, hwrite⟩ := writeFile_special hk v
  exact ⟨u, hwrite, storeFile_of_write hwrite⟩

end

/-- Settles O27: the data write is done first, so the flags written after it are those of the operation. -/
theorem arithmeticOnSpecialRegister : Obligations.ArithmeticOnSpecialRegister := by
  intro s f d r hk
  obtain ⟨a, t, hread⟩ := readFile_special hk
  have hkt : fileKind f t.par = .special r := (fileKind_of_read hread).trans hk
  refine ⟨a, t, hread, fun hr => ?frame, ?addwf, ?subwf, ?rlf, ?rrf⟩
  case frame =>
    have hg := ne_general_of_kind hk hr
    exact ⟨accessKeepsPc_of_notGeneral hg hread d, readFile_frame hg hread⟩
  case addwf =>
    obtain ⟨u, hwrite, hexec⟩ := readThenStore_special hkt hread d (· + s.w) fun a y => (y.addFlags a s.w).advance
    rw [add_eq_ofNat] at hwrite
    rw [addFlags_eq] at hexec
    exact ⟨u, hwrite, hexec⟩
  case subwf =>
    obtain ⟨u, hwrite, hexec⟩ := readThenStore_special hkt hread d (· - s.w) fun a y => (y.subFlags a s.w).advance
    rw [sub_eq_ofNat] at hwrite
    rw [subFlags_eq] at hexec
    exact ⟨u, hwrite, hexec⟩
  case rlf =>
    obtain ⟨u, hwrite, hexec⟩ :=
      readThenStore_special hkt hread d (rotateLeft · s.c) fun a y => (y.setC (a.getLsbD 7)).advance
    rw [rotateLeft_eq_ofNat] at hwrite
    rw [getLsbD_seven] at hexec
    exact ⟨u, hwrite, hexec⟩
  case rrf =>
    obtain ⟨u, hwrite, hexec⟩ :=
      readThenStore_special hkt hread d (rotateRight · s.c) fun a y => (y.setC (a.getLsbD 0)).advance
    rw [rotateRight_eq_ofNat] at hwrite
    rw [getLsbD_zero] at hexec
    exact ⟨u, hwrite, hexec⟩

/-- Settles O28: Z is written after the data write, from the result, which is zero for the operands named. -/
theorem logicOnSpecialRegister : Obligations.LogicOnSpecialRegister := by
  intro s f d r hk
  obtain ⟨a, t, hread⟩ := readFile_special hk
  have hkt : fileKind f t.par = .special r := (fileKind_of_read hread).trans hk
  refine ⟨⟨a, t, hread, fun hr => accessKeepsPc_of_notGeneral (ne_general_of_kind hk hr) hread d,
    fileOpZ_special hkt hread d (s.w &&& ·) (zeroFlag_eq _), fileOpZ_special hkt hread d (s.w ||| ·) (zeroFlag_or s.w a),
    fileOpZ_special hkt hread d (s.w ^^^ ·) (zeroFlag_xor s.w a), fileOpZ_special hkt hread d (~~~ ·) (zeroFlag_not a),
    fileOpZ_special hkt hread d (fun a => a) (zeroFlag_eq a), fileOpZ_special hkt hread d (· + 1#8) (zeroFlag_add_one a),
    fileOpZ_special hkt hread d (· - 1#8) (zeroFlag_sub a 1#8)⟩, ?_⟩
  exact storeFile_special hk 0#8 fun y => (y.setZ 0#8).advance

/-- Settles O29: nothing is written after the data write but pc. -/
theorem movesAndSkipsOnSpecialRegister : Obligations.MovesAndSkipsOnSpecialRegister := by
  intro s f d b r hk _
  obtain ⟨a, t, hread⟩ := readFile_special hk
  have hkt : fileKind f t.par = .special r := (fileKind_of_read hread).trans hk
  refine ⟨⟨a, t, hread, fun hr => accessKeepsPc_of_notGeneral (ne_general_of_kind hk hr) hread d, ?swapf,
    readThenStore_special hkt hread .f (clearBit · b) fun _ y => y.advance,
    readThenStore_special hkt hread .f (setBit · b) fun _ y => y.advance, ?btfsc, ?btfss, ?decfsz, ?incfsz⟩,
    storeFile_special hk s.w fun y => y.advance⟩
  case swapf =>
    rw [← swapNibbles_eq_ofNat]
    exact readThenStore_special hkt hread d swapNibbles fun _ y => y.advance
  case btfsc =>
    rw [exec, execBtfsc, withFile_of_read hread, skipWhen_eq]
    cases a.getLsbD b <;> rfl
  case btfss => rw [exec, execBtfss, withFile_of_read hread, skipWhen_eq]
  case decfsz =>
    obtain ⟨u, hwrite, hexec⟩ := readThenStore_special hkt hread d (· - 1#8) fun a y => y.skipWhen (zeroFlag (a - 1#8))
    rw [skipWhen_eq, zeroFlag_sub] at hexec
    simp only [decide_eq_true_eq] at hexec
    exact ⟨u, hwrite, hexec⟩
  case incfsz =>
    obtain ⟨u, hwrite, hexec⟩ := readThenStore_special hkt hread d (· + 1#8) fun a y => y.skipWhen (zeroFlag (a + 1#8))
    rw [skipWhen_eq, zeroFlag_add_one] at hexec
    simp only [decide_eq_true_eq] at hexec
    exact ⟨u, hwrite, hexec⟩

/-- What the machine takes over from a general register's function, and in which form. -/
theorem adopt_spec (y s : State) :
    y.adopt s = { y with
      stack := (y.adopt s).stack, mem := (y.adopt s).mem, inputs := s.inputs, draws := s.draws, prog := s.prog, par := s.par } ∧
    (∀ g < 128, memRead (y.adopt s).mem g = memRead y.mem g) ∧ (y.adopt s).mem.wf = true ∧
    (y.stack.length ≤ s.par.stackDepth → (y.adopt s).stack = y.stack) ∧ (y.adopt s).stack.length ≤ s.par.stackDepth :=
  ⟨rfl, fun _ hg => memRead_cellsOf _ hg, cellsOf_wf _, List.take_of_length_le, List.length_take_le _ _⟩

/-- Settles O60: the access to a device register moves the devices alone, and one to a general register adopts what it is given. -/
theorem deviceAndGeneralRegisterAccess : Obligations.DeviceAndGeneralRegisterAccess := by
  intro s f v
  refine ⟨fun hk => ⟨_, _, _, readFile_device hk, writeFile_device hk⟩,
    fun id hk => ⟨_, _, _, readFile_general hk, writeFile_general hk, rfl, fun x y hxy => ?_⟩⟩
  rcases hxy with ⟨rfl, rfl⟩ | ⟨rfl, rfl⟩
  · exact adopt_spec _ s
  · exact adopt_spec _ s

end Sys2Proof.Proofs.SpecialRegister
end

section
/-! SUPPORT, and the proofs of O33 and O34. Special registers built of bits (20_memory.md R62, R65): a read lines the bits up, a
write goes through the writable ones from the lowest to the highest. -/

namespace Sys2Proof.Proofs.Layout

open Sys2Proof Sys2Proof.Machine Sys2Proof.Proofs.Arithmetic

section

variable {s : State} {f i j : Nat} {v : Byte}

/-! ## Reading -/

theorem getLsbD_maskIf (b : Bool) (hj : j < 8) :
    (if b then bitMask i else 0#8).getLsbD j = (b && decide (j = i)) := by
  cases b
  · simp
  · simpa using getLsbD_bitMask hj

/-- The bits from position `i` on reach nothing below it. -/
theorem getLsbD_layoutRead_below (f : Nat) (s : State) (bits : List SfrBit) (hj : j < i) (hj8 : j < 8) :
    (layoutRead f s i bits).getLsbD j = false := by
  induction bits generalizing i with
  | nil => exact BitVec.getLsbD_zero
  | cons b bs ih =>
    rw [layoutRead, BitVec.getLsbD_or, getLsbD_maskIf _ hj8, ih (Nat.lt_succ_of_lt hj), decide_eq_false (Nat.ne_of_lt hj)]
    simp

/-- Bit `i + k` of the byte is the `k`-th bit of the layout. -/
theorem getLsbD_layoutRead (f : Nat) (s : State) (bits : List SfrBit) {k : Nat} (hk : i + k < 8) :
    (layoutRead f s i bits).getLsbD (i + k) = (bits[k]?).elim false fun b => bitRead f (i + k) b.source s := by
  induction bits generalizing i k with
  | nil => exact BitVec.getLsbD_zero
  | cons b bs ih =>
    rw [layoutRead, BitVec.getLsbD_or, getLsbD_maskIf _ hk]
    cases k with
    | zero =>
      have hbelow := getLsbD_layoutRead_below f s bs (Nat.lt_succ_self i) hk
      rw [Nat.add_zero, hbelow]
      simp
    | succ k =>
      have hne : i + (k + 1) ≠ i := by omega
      have hshift : i + (k + 1) = i + 1 + k := by omega
      rw [decide_eq_false hne, Bool.and_false, Bool.false_or, hshift, ih (by omega)]
      rfl

/-! ## Writing one bit -/

theorem memRead_putCell (hm : s.mem.wf = true) (u : Byte) : memRead (memWrite s.mem f u) f = u := by
  rw [memRead_memWrite hm, if_pos rfl]

theorem getLsbD_of_le {k : Nat} (a : Byte) (hk : ¬ k < 8) : a.getLsbD k = false := BitVec.getLsbD_of_ge a k (Nat.not_lt.mp hk)

theorem getLsbD_putBit_of_ne (a : Byte) (b : Bool) (h : j ≠ i) : (putBit a i b).getLsbD j = a.getLsbD j := by
  by_cases hj : j < 8
  · rw [getLsbD_putBit a b hj, if_neg h]
  · rw [getLsbD_of_le _ hj, getLsbD_of_le _ hj]

theorem getLsbD_putBit_self (a : Byte) (b : Bool) (hi : i < 8) : (putBit a i b).getLsbD i = b := by
  rw [getLsbD_putBit a b hi, if_pos rfl]

/-- Another bit of storage of the register reads as before. -/
theorem bitRead_stored_bitWrite_of_ne (hm : s.mem.wf = true) (b : Bool) (h : i ≠ j) :
    bitRead f j .stored (bitWrite f i .stored b s) = bitRead f j .stored s := by
  simp only [bitRead, bitWrite, memRead_putCell hm]
  exact getLsbD_putBit_of_ne _ _ h.symm

/-- Another piece of state reads as before. -/
theorem bitRead_bitWrite_of_source_ne {src x : BitSource} (b : Bool) (h : src ≠ x) :
    bitRead f j x (bitWrite f i src b s) = bitRead f j x s := by
  cases src with
  | c | dc | z | toFlag | pdFlag | gie | stored => cases x <;> simp_all [bitRead, bitWrite]
  | const w => rfl
  | pclatch k =>
    cases x with
    | pclatch l => exact getLsbD_putBit_of_ne _ _ fun hlk => h (hlk ▸ rfl)
    | _ => rfl
  | irqEnable q | irqRequest q =>
    cases x with
    | irqEnable p | irqRequest p =>
      simp only [bitRead, bitWrite, irqGet_irqPut]
      by_cases hqp : q = p
      · simp_all
      · rw [if_neg hqp]
    | _ => rfl

/-- A bit that a data write changes takes the value written. -/
theorem bitRead_bitWrite_self (hm : s.mem.wf = true) {b : SfrBit} (hb : changedByWrite b = true) (hlegal : b.legalAt i = true)
    (hi : i < 8) (x : Bool) : bitRead f i b.source (bitWrite f i b.source x s) = x := by
  obtain ⟨src, writable⟩ := b
  cases src with
  | c | dc | z | toFlag | pdFlag | gie => rfl
  | pclatch k => exact getLsbD_putBit_self _ _ (of_decide_eq_true hlegal)
  | irqEnable q | irqRequest q => simp only [bitRead, bitWrite, irqGet_irqPut, if_true]
  | stored =>
    simp only [bitRead, bitWrite, memRead_putCell hm]
    exact getLsbD_putBit_self _ _ hi
  | const w => cases hb

theorem bitWrite_wake (q : SourceName) (f i : Nat) (src : BitSource) (b : Bool) (s : State) :
    (irqGet q (bitWrite f i src b s).irq).wake = (irqGet q s.irq).wake := by
  cases src with
  | irqEnable p | irqRequest p =>
    simp only [bitWrite, irqGet_irqPut]
    split
    · rw [‹p = q›]
    · rfl
  | _ => rfl

theorem bitWrite_otherCell (hm : s.mem.wf = true) {a : Nat} (ha : a ≠ f) (i : Nat) (src : BitSource) (b : Bool) :
    memRead (bitWrite f i src b s).mem a = memRead s.mem a := by
  cases src with
  | stored => simp only [bitWrite, memRead_memWrite hm, if_neg ha.symm]
  | _ => rfl

/-! ## Writing the layout -/

/-- What every bit write keeps, the write of a layout keeps. -/
theorem layoutWrite_keeps {α : Type} (g : State → α) (hf : f < 128)
    (hg : ∀ i src b s, s.mem.wf = true → g (bitWrite f i src b s) = g s) (bits : List SfrBit) (hm : s.mem.wf = true) :
    g (layoutWrite f v i bits s) = g s := by
  induction bits generalizing i s with
  | nil => rfl
  | cons b bs ih =>
    rw [layoutWrite]
    cases b.writable with
    | false => exact ih hm
    | true => exact (ih (bitWrite_mem_wf hf hm i _ _)).trans (hg _ _ _ _ hm)

/-- A piece of state that no writable bit names reads as before. -/
theorem bitRead_layoutWrite_of_unnamed (hf : f < 128) {x : BitSource} (bits : List SfrBit) (hm : s.mem.wf = true)
    (h : ∀ k c, bits[k]? = some c → c.writable = true → c.source = x → x = .stored ∧ i + k ≠ j) :
    bitRead f j x (layoutWrite f v i bits s) = bitRead f j x s := by
  induction bits generalizing i s with
  | nil => rfl
  | cons b bs ih =>
    have htail : ∀ k c, bs[k]? = some c → c.writable = true → c.source = x → x = .stored ∧ i + 1 + k ≠ j := by
      intro k c hc hw hx
      have hshift : i + (k + 1) = i + 1 + k := by omega
      exact hshift ▸ h (k + 1) c hc hw hx
    rw [layoutWrite]
    cases hw : b.writable with
    | false => exact ih hm htail
    | true =>
      have hhead : bitRead f j x (bitWrite f i b.source (v.getLsbD i) s) = bitRead f j x s := by
        by_cases hsource : b.source = x
        · obtain ⟨rfl, hne⟩ := h 0 b rfl hw hsource
          rw [hsource]
          exact bitRead_stored_bitWrite_of_ne hm _ hne
        · exact bitRead_bitWrite_of_source_ne _ hsource
      exact (ih (bitWrite_mem_wf hf hm i _ _) htail).trans hhead

theorem writable_of_changed {b : SfrBit} (h : changedByWrite b = true) : b.writable = true := by
  unfold changedByWrite at h
  split at h
  · cases h
  · exact h

/-- A changed bit takes its bit of the byte, unless a higher writable bit names the same piece of state. -/
theorem bitRead_layoutWrite_of_changed (hf : f < 128) (bits : List SfrBit) {k : Nat} {b : SfrBit} (hm : s.mem.wf = true)
    (hlegal : layoutLegal i bits = true) (hk : bits[k]? = some b) (hb : changedByWrite b = true)
    (hlast : ∀ l c, k < l → bits[l]? = some c → c.writable = true → c.source = b.source → b.source = .stored) :
    bitRead f (i + k) b.source (layoutWrite f v i bits s) = v.getLsbD (i + k) := by
  induction bits generalizing i s k with
  | nil => cases hk
  | cons e bs ih =>
    simp only [layoutLegal, Bool.and_eq_true, decide_eq_true_eq] at hlegal
    obtain ⟨⟨hi, hlegalHead⟩, hlegalTail⟩ := hlegal
    rw [layoutWrite]
    cases k with
    | zero =>
      obtain rfl : e = b := Option.some.inj hk
      have htail : ∀ l c, bs[l]? = some c → c.writable = true → c.source = e.source →
          e.source = .stored ∧ i + 1 + l ≠ i :=
        fun l c hc hcw hcx => ⟨hlast (l + 1) c (Nat.succ_pos l) hc hcw hcx, by omega⟩
      rw [writable_of_changed hb, if_pos rfl, Nat.add_zero,
        bitRead_layoutWrite_of_unnamed hf bs (bitWrite_mem_wf hf hm i _ _) htail]
      exact bitRead_bitWrite_self hm hb hlegalHead hi _
    | succ k =>
      have hshift : i + (k + 1) = i + 1 + k := by omega
      have hlast' : ∀ l c, k < l → bs[l]? = some c → c.writable = true → c.source = b.source → b.source = .stored :=
        fun l c hl hc => hlast (l + 1) c (Nat.succ_lt_succ hl) hc
      rw [hshift]
      cases e.writable with
      | false => exact ih hm hlegalTail hk hlast'
      | true => exact ih (bitWrite_mem_wf hf hm i _ _) hlegalTail hk hlast'

end

/-- Settles O33: a layout's read is its bits in their order, and it changes nothing. -/
theorem specialRegisterReadsItsBits : Obligations.SpecialRegisterReadsItsBits := by
  intro s f bits hk _
  refine ⟨_, readFile_layout hk, fun j hj => ?_⟩
  have hbit := getLsbD_layoutRead f s bits (i := 0) (k := j) (by omega)
  rw [Nat.zero_add] at hbit
  rw [hbit]
  cases bits[j]? <;> rfl

/-- Settles O34: of the bit writes that make up the write only those that name a piece of state reach it, and the last of them
stays. -/
theorem specialRegisterWriteChangesWritableBits : Obligations.SpecialRegisterWriteChangesWritableBits := by
  intro s f v bits hm hk hlegal
  have hf : f < 128 := fileKind_lt (s := s) (by simp [hk])
  obtain ⟨hw, hpc, hstack, hwdt, hwdtps, hsleep, hdevice, hinputs, hdraws, hprog, hpar⟩ := layoutWrite_frame f v 0 bits s
  refine ⟨_, writeFile_layout hk, fun j b hj hb hlast => ?changed, fun j x hx => ?kept,
    fun q => layoutWrite_keeps (fun s => (irqGet q s.irq).wake) hf (fun i src b s _ => bitWrite_wake q f i src b s) bits hm,
    fun a ha => layoutWrite_keeps (fun s => memRead s.mem a) hf (fun i src b _ hs => bitWrite_otherCell hs ha i src b) bits hm,
    hw, hpc, hstack, hwdt, hwdtps, hsleep, hdevice, hinputs, hdraws, hprog, hpar⟩
  case changed => simpa using bitRead_layoutWrite_of_changed (v := v) hf bits hm hlegal hj hb hlast
  case kept =>
    refine bitRead_layoutWrite_of_unnamed hf bits hm fun k c hc hcw hcx => ?_
    rw [Nat.zero_add]
    exact hx k c hc hcw hcx

end Sys2Proof.Proofs.Layout
end
